-- ==== Sys2Proof/Word.lean ====
section
/-!
DEFINITION. The word type of the channels (00_scope.md R16, 20_memory.md R84), the type of binary32
values (R17) and the two command ports (R82). The arithmetic on values is in Machine/Float.lean.
-/

namespace Sys2Proof

/-- A 32-bit word, bit 31 the most significant (R16). `U32` of the spec. -/
abbrev Word := BitVec 32

/-- The magnitude patterns (exponent and fraction) of the finite binary32 values are those below the
pattern of infinity (R17). -/
abbrev magInf : Nat := 0x7F800000

/-- A binary32 value (R17). `fin neg mag` is the finite value with sign bit `neg` and the 31-bit
pattern `mag` of exponent and fraction, so the two zeros and the subnormals are among them.
All NaN patterns are the ONE value `nan`: no rule reads the sign or payload of a NaN (R19, U9), and a
pattern is drawn, free, only where a NaN becomes a result word (assumption 4). -/
inductive F where
  | nan
  | inf (neg : Bool)
  | fin (neg : Bool) (mag : Fin magInf)
  deriving DecidableEq, Repr, Inhabited

/-- The two command ports (R82): AUD is the audio agent's, CTL the control agent's. -/
inductive Port where
  | aud
  | ctl
  deriving DecidableEq, Repr, Inhabited

end Sys2Proof
end

