-- ==== Sys2Proof/Machine/Float.lean ====
section
/-!
DEFINITION. IEEE 754 binary32 as 00_scope.md R17 to R20 fix it: patterns, the four rounded operations,
the comparisons, floor, wrap01, lerp, clampv. A finite value is an exact multiple of 2^-149, so an
operation computes its exact result as a quotient of naturals and rounds once, to nearest, ties to even.
-/

namespace Sys2Proof
namespace F

/-- The exact value of a finite magnitude pattern, in units of 2^-149 (R17: the field layout 1, 8, 23;
exponent field 0 is subnormal). -/
def magVal (m : Nat) : Nat :=
  if m / 2 ^ 23 = 0 then m % 2 ^ 23 else (2 ^ 23 + m % 2 ^ 23) * 2 ^ (m / 2 ^ 23 - 1)

/-- Integer division rounded to nearest, ties to even (R18). -/
def divNearestEven (n d : Nat) : Nat :=
  if d < 2 * (n % d) ∨ (2 * (n % d) = d ∧ (n / d) % 2 = 1) then n / d + 1 else n / d

/-- The magnitude pattern nearest to `n / d` units of 2^-149, ties to even, with an unbounded exponent
(R18). The quantum is 2^sh units; a mantissa rounded up to 2^24 carries into the exponent field. -/
def roundMag (n d : Nat) : Nat :=
  ((n / d).log2 - 23) * 2 ^ 23 + divNearestEven n (d * 2 ^ ((n / d).log2 - 23))

/-- The binary32 value nearest to `±n / d` units of 2^-149, ties to even; past the largest finite value
it is an infinity (R18, R381: overflow gives an infinity, underflow is gradual). -/
def round (neg : Bool) (n d : Nat) : F :=
  if h : roundMag n d < magInf then .fin neg ⟨roundMag n d, h⟩ else .inf neg

/-- `asF(w)`: the value of a pattern (R17). -/
def asF (w : Word) : F :=
  if h : (w.extractLsb' 0 31).toNat < magInf then .fin (w.getLsbD 31) ⟨(w.extractLsb' 0 31).toNat, h⟩
  else if (w.extractLsb' 0 31).toNat = magInf then .inf (w.getLsbD 31)
  else .nan

/-- The pattern of a value that is not a NaN; for a NaN, the pattern given (R17, R19). -/
def bitsOr (nanPattern : Word) : F → Word
  | .nan => nanPattern
  | .inf neg => BitVec.ofBool neg ++ BitVec.ofNat 31 magInf
  | .fin neg mag => BitVec.ofBool neg ++ BitVec.ofNat 31 mag.val

/-- Is this pattern one of a NaN (R17: exponent all ones, fraction not zero)? -/
def isNanPattern (w : Word) : Bool := decide (magInf < (w.extractLsb' 0 31).toNat)

/-- Some NaN pattern, every one of them for some argument: the word itself where it is one, else the
word with its exponent field filled and, where the fraction is zero, the last bit set. -/
def toNanPattern (w : Word) : Word :=
  if isNanPattern w then w
  else if isNanPattern (w ||| 0x7F800000#32) then w ||| 0x7F800000#32
  else w ||| 0x7F800001#32

/-- `+0.0`. -/
def zero : F := .fin false 0

/-- A decimal literal: the binary32 value nearest to `n / d` (R18). -/
def lit (n d : Nat) : F := round false (n * 2 ^ 149) d

/-- `F(n)`: the exact conversion of an integer below 2^24 (R18). -/
def ofNat (n : Nat) : F := lit n 1

/-- Unary minus flips the sign bit (R18). -/
def neg : F → F
  | .nan => .nan
  | .inf s => .inf (!s)
  | .fin s m => .fin (!s) m

/-- The sign bit; a NaN's is not fixed and counts as clear. -/
def signBit : F → Bool
  | .nan => false
  | .inf s => s
  | .fin s _ => s

/-- `isfinite(x)`: neither an infinity nor a NaN (R19). -/
def isFinite : F → Bool
  | .fin _ _ => true
  | _ => false

def isNan : F → Bool
  | .nan => true
  | _ => false

/-- `a + b`, rounded (R18); `inf - inf` is a NaN (R381); an exact zero sum of opposite signs is `+0.0`. -/
def add : F → F → F
  | .nan, _ => .nan
  | _, .nan => .nan
  | .inf s, .inf t => if s = t then .inf s else .nan
  | .inf s, .fin _ _ => .inf s
  | .fin _ _, .inf t => .inf t
  | .fin s m, .fin t n =>
    if s = t then round s (magVal m + magVal n) 1
    else if magVal m = magVal n then zero
    else if magVal n < magVal m then round s (magVal m - magVal n) 1
    else round t (magVal n - magVal m) 1

/-- `a - b`, rounded (R18). -/
def sub (a b : F) : F := add a (neg b)

/-- `a * b`, rounded (R18); `0 * inf` is a NaN (R381). -/
def mul : F → F → F
  | .nan, _ => .nan
  | _, .nan => .nan
  | .inf s, .inf t => .inf (s != t)
  | .inf s, .fin t n => if n.val = 0 then .nan else .inf (s != t)
  | .fin s m, .inf t => if m.val = 0 then .nan else .inf (s != t)
  | .fin s m, .fin t n => round (s != t) (magVal m * magVal n) (2 ^ 149)

/-- `a / b`, rounded (R18); `0 / 0` and `inf / inf` are NaNs, a non-zero value over zero is an
infinity (R381). -/
def div : F → F → F
  | .nan, _ => .nan
  | _, .nan => .nan
  | .inf _, .inf _ => .nan
  | .inf s, .fin t _ => .inf (s != t)
  | .fin s _, .inf t => .fin (s != t) 0
  | .fin s m, .fin t n =>
    if n.val = 0 then (if m.val = 0 then .nan else .inf (s != t))
    else round (s != t) (magVal m * 2 ^ 149) (magVal n)

/-- Where a value stands in the order of the non-NaN values; the two zeros stand together, and a NaN
stands nowhere (R18). -/
def key : F → Option Int
  | .nan => none
  | .inf s => some (if s then -(magInf : Int) else (magInf : Int))
  | .fin s m => some (if s then -(m.val : Int) else (m.val : Int))

/-- `a < b`; false when either is a NaN (R18). -/
def lt (a b : F) : Bool :=
  match key a, key b with
  | some x, some y => decide (x < y)
  | _, _ => false

/-- `a <= b`; false when either is a NaN (R18). -/
def le (a b : F) : Bool :=
  match key a, key b with
  | some x, some y => decide (x ≤ y)
  | _, _ => false

/-- `a > b` (R18). -/
def gt (a b : F) : Bool := lt b a

/-- `a >= b` (R18). -/
def ge (a b : F) : Bool := le b a

/-- `a == b`; false when either is a NaN, and `-0.0 == 0.0` (R18). -/
def feq (a b : F) : Bool :=
  match key a, key b with
  | some x, some y => decide (x = y)
  | _, _ => false

/-- `a != b`; true when either is a NaN (R18). -/
def fne (a b : F) : Bool := !feq a b

/-- `floor(x)`: the largest integral value not above `x`, exact; a NaN for a NaN, an infinity for an
infinity (R20). A zero result keeps the sign bit of `x` (assumption 15). -/
def floor : F → F
  | .nan => .nan
  | .inf s => .inf s
  | .fin false m => round false (magVal m / 2 ^ 149 * 2 ^ 149) 1
  | .fin true m => round true ((magVal m + (2 ^ 149 - 1)) / 2 ^ 149 * 2 ^ 149) 1

/-- The literal 1.0. -/
def one : F := lit 1 1

/-- `wrap01(t) = u = t - floor(t); if u >= 1.0 then 0.0 else u` (R20). -/
def wrap01 (t : F) : F :=
  if ge (sub t (floor t)) one then zero else sub t (floor t)

/-- `lerp(a, b, t) = a + t * (b - a)`, three rounded operations (R23). -/
def lerp (a b t : F) : F := add a (mul t (sub b a))

/-- The largest integer not above a finite non-negative value (R382 e). For the values the rule
excludes it answers 0 (NaN, negative) or `top` (`+inf`); no state that keeps the parameters in range
asks for them (assumption 13). -/
def floorNat (top : Nat) : F → Nat
  | .nan => 0
  | .inf s => if s then 0 else top
  | .fin true _ => 0
  | .fin false m => magVal m / 2 ^ 149

end F
end Sys2Proof
end

