-- ==== Sys2Proof/Machine/Line.lean ====
section
/-!
DEFINITION. The storage of one effect line (10_state.md R52): a circular buffer of binary32 words, held
sparsely in one canonical form. The hardware has no addressed memory (20_memory.md R80); these lines
and the model stores are all its storage arrays.
-/

namespace Sys2Proof

/-- One effect line: the elements that are not `+0.0`, as (index, value) pairs (R52; assumption 14).
An unlisted element reads as `+0.0`, the value of every element after power-on (R400). -/
structure Line where
  entries : List (Nat × F)
  deriving DecidableEq, Repr, Inhabited

/-- The line of zeros (R52, R400). -/
def Line.cleared : Line := ⟨[]⟩

/-- Find an element among the entries; an unlisted one is `+0.0`. -/
def lookupEntry (i : Nat) : List (Nat × F) → F
  | [] => F.zero
  | (k, x) :: rest => if k = i then x else lookupEntry i rest

/-- Put an element among the entries, keeping the indices rising; `+0.0` is put by removing the entry. -/
def insertEntry (i : Nat) (x : F) : List (Nat × F) → List (Nat × F)
  | [] => if x = F.zero then [] else [(i, x)]
  | (k, y) :: rest =>
    if i < k then (if x = F.zero then (k, y) :: rest else (i, x) :: (k, y) :: rest)
    else if i = k then (if x = F.zero then rest else (i, x) :: rest)
    else (k, y) :: insertEntry i x rest

/-- Read one element (R307 to R309 read at an index). -/
def Line.get (l : Line) (i : Nat) : F := lookupEntry i l.entries

/-- Write one element (R307 to R309 write at the write index). -/
def Line.set (l : Line) (i : Nat) (x : F) : Line := ⟨insertEntry i x l.entries⟩

/-- The canonical form of a line of `len` elements: indices strictly rising and below `len`, and no
entry equal to `+0.0`. -/
def entriesWf (len : Nat) : List (Nat × F) → Bool
  | [] => true
  | (k, x) :: rest =>
    decide (k < len) && decide (x ≠ F.zero) && rest.all (fun e => decide (k < e.1)) && entriesWf len rest

/-- The canonical form of a line (assumption 14). -/
def Line.wf (len : Nat) (l : Line) : Bool := entriesWf len l.entries

/-- One more than the greatest index among the entries. -/
def entriesSpan : List (Nat × F) → Nat
  | [] => 0
  | (k, _) :: rest => max (k + 1) (entriesSpan rest)

/-- The canonical form of a line of no fixed length, that of an open kernel (R52; assumptions 7, 14). -/
def Line.canonical (l : Line) : Bool := l.wf (entriesSpan l.entries)

/-- `(w - D) mod LEN` with the mathematical non-negative remainder (R382 d). -/
def tapIndex (len w d : Nat) : Nat := (w + (len - d % len)) % len

end Sys2Proof
end

