-- ==== Sys2Proof/Config.lean ====
section
/-!
DEFINITION. What an implementation fixes: the counts and sizes of 00_scope.md R11 to R14, and the open
parameters of R15 (NUM, RNG, SAT_FN, CHORUS_KERNEL, REVERB_KERNEL), NaN patterns and interleaving as
opaque constants. The sizes of the effect stand-ins stand at their reference value; open
functions have no value here at all. The real constants, and the data parameters NV, DLY_LEN, RANGE and
SMOOTH_K (assumption 9), are in Machine/Constants.lean.
-/

namespace Sys2Proof.Config

/-! ## Counts (R11, R12, R14) -/

/-- The most voice slots any machine has: `NV <= 256` by the width of the `inst` field (R101, U15). How many this
machine has, `NV`, is a setting (Machine/Constants.lean). -/
abbrev nvMax : Nat := 256
/-- `NP`: partials per spectral model (R11). -/
abbrev np : Nat := 64
/-- `NSLOT`: model slots per resonator (R11). -/
abbrev nslot : Nat := 4
/-- `NOSC`: oscillators per additive resonator and filters per filter bank (R11). -/
abbrev nosc : Nat := 128
/-- `LANES`: filters processed together (R11, R42). -/
abbrev lanes : Nat := 4
/-- `NLFO` (R11). -/
abbrev nlfo : Nat := 2
/-- The six global effect parameters (R51, R302). -/
abbrev nfx : Nat := 6
/-- `CH_LEN` (R14, U16): the line of the chorus stand-in. -/
abbrev chLen : Nat := 2048
/-- `RV_LEN` (R14, U16): the line of the reverb stand-in. -/
abbrev rvLen : Nat := 2048
/-- `CH_D` (R14): the tap of the chorus stand-in. -/
abbrev chD : Nat := 480
/-- `RV_D` (R14): the tap of the reverb stand-in. -/
abbrev rvD : Nat := 1116

/-! ## Open parameters (R15): opaque, with no value -/

/-- A chorus or reverb kernel's own state (R52): numbered real elements, a write index, and whatever whole
numbers it keeps beside them. The stand-ins of R307 and R309 use a line and the index and nothing else. The
empty record stands for the kernel's reset state (R307, R312; assumption 7). -/
structure KernelState where
  line : Line
  index : Nat
  own : List Nat
  deriving DecidableEq, Repr, Inhabited

/-- What one call of a chorus or reverb kernel answers: the elements of its line it writes, its next index
and whole numbers, and its output sample (R307, R309; assumption 7). -/
structure KernelStep where
  writes : List (Nat × F)
  index : Nat
  own : List Nat
  out : F
  deriving DecidableEq, Repr, Inhabited

/-- NUM's exponential, before the properties of R21 are imposed (U10, D5). -/
opaque rawExp : F → F
/-- NUM's sine (U10). -/
opaque rawSin : F → F
/-- NUM's cosine (U10). -/
opaque rawCos : F → F
/-- NUM's power (U10). -/
opaque rawPow : F → F → F
/-- RNG's next state (R153, U11). -/
opaque rngNext : Word → Word
/-- RNG's draw, before the property of R153 is imposed (U11). -/
opaque rawBipolar : Word → F
/-- SAT_FN, before the contract of R306 is imposed (U12). -/
opaque rawSat : F → F → F
/-- CHORUS_KERNEL over its own state, before the contract of R307 is imposed (U12). -/
opaque rawChorus : KernelState → F → F → KernelStep
/-- REVERB_KERNEL over its own state, before the contract of R309 is imposed (U12). -/
opaque rawReverb : KernelState → F → F → KernelStep
/-- The free pattern of the n-th NaN that becomes a result word (R19, U9). -/
opaque nanDraw : Nat → Word
/-- Which port the n-th accepted command is taken from, where both ports have one and the agents' order
is not given (R90, U17). -/
opaque arbiter : Nat → Port

/-- The open functions as one record, which the shared operations take as an argument (R15): the
machine passes `params`, a test passes the reference record of Machine/Reference.lean. -/
structure Params where
  rawExp : F → F
  rawSin : F → F
  rawCos : F → F
  rawPow : F → F → F
  rngNext : Word → Word
  rawBipolar : Word → F
  rawSat : F → F → F
  rawChorus : KernelState → F → F → KernelStep
  rawReverb : KernelState → F → F → KernelStep
  nanDraw : Nat → Word

/-- The machine's own open functions. -/
def params : Params where
  rawExp := rawExp
  rawSin := rawSin
  rawCos := rawCos
  rawPow := rawPow
  rngNext := rngNext
  rawBipolar := rawBipolar
  rawSat := rawSat
  rawChorus := rawChorus
  rawReverb := rawReverb
  nanDraw := nanDraw

end Sys2Proof.Config
end

