-- ==== Sys2Proof/Machine/Constants.lean ====
section
/-!
DEFINITION. The real constants of 00_scope.md R13 and R14 at the values the spec gives, and the data a model
takes as configuration (93_implementation_defined.md U13 to U16): the table RANGE of 10_state.md R36, SMOOTH_K, NV and
DLY_LEN, as the record `Settings` that State holds, with its reference value (assumption 9).
-/

namespace Sys2Proof.Config

/-! ## Real constants (R13, R14), each the binary32 value nearest to its decimal -/

/-- `ENV_ATK_TARGET` (R13). -/
def envAtkTarget : F := F.lit 11 10
/-- `ENV_ATK_DONE` (R13). -/
def envAtkDone : F := F.lit 1 1
/-- `ENV_EPS` (R13). -/
def envEps : F := F.lit 1 10000
/-- `ENV_REL_TARGET` (R14; 90_conflicts.md C1). -/
def envRelTarget : F := F.zero
/-- `RFB_Q_BASE` (R13). -/
def rfbQBase : F := F.lit 1 1
/-- `RFB_Q_SPAN` (R13). -/
def rfbQSpan : F := F.lit 199 1
/-- `FB_Q_MIN` (R13). -/
def fbQMin : F := F.lit 1 2
/-- `FB_Q_MAX` (R13). -/
def fbQMax : F := F.lit 15 1
/-- `FB_Q_MAX - FB_Q_MIN = 14.5`, used as a constant and not computed (R252). -/
def fbQSpan : F := F.lit 145 10
/-- `A4` (R13): the tuning reference, and with it the reference default of the base frequencies (R36). -/
def a4 : F := F.lit 440 1
/-- `AR_STRETCH_K` (R13). -/
def arStretchK : F := F.lit 1 2
/-- `MS` (R13). -/
def ms : F := F.lit 1 1000
/-- `K_AR_HI` (R13). -/
def kArHi : F := F.lit 45 100
/-- `K_RFB_LO` (R13). -/
def kRfbLo : F := F.lit 10 1
/-- `K_RFB_HI` (R13). -/
def kRfbHi : F := F.lit 48 100
/-- `K_UNI` (R13). -/
def kUni : F := F.lit 707 1000
/-- `PM_MAX` (R14). -/
def pmMax : F := F.lit 1 1
/-- `TWO_PI`, the pattern `0x40C90FDB` (R14). -/
def twoPi : F := F.asF 0x40C90FDB#32
/-- `RV_G` (R14). -/
def rvG : F := F.lit 84 100
/-- `SMOOTH_K`: its reference value (R14, R310, U13). -/
def smoothK : F := F.lit 1 1000

/-! ## The table RANGE (R36) -/

/-- A row of RANGE: lower bound, upper bound, default. -/
structure Range where
  lo : F
  hi : F
  dflt : F
  deriving DecidableEq, Repr, Inhabited

/-- The rows of RANGE whose bounds do not depend on the sample rate; the oscillator frequency operand is
`Settings.poFreqRange`. -/
inductive Control where
  | sysFs
  | arBase | arStretch | arEntropy | arDetune
  | morph | resonance | rfbDetune
  | rfbBase
  | modelAmp | modelOff
  | phaseMod
  | envAttack | envDecay | envSustain | envRelease
  | fbCutoff | fbRes
  | lfoRate | lfoDepth | lfoBpm | lfoDiv
  | fxMaster | fxSat | fxDlyTime | fxDlyFb | fxChMix | fxRvMix
  deriving DecidableEq, Repr

/-- The unit interval with a default. -/
def unitRange (dflt : F) : Range := ⟨F.zero, F.lit 1 1, dflt⟩

/-- The data parameters of the model (R12, R14, R36, U13 to U16; D6, D14, D40, D42): the number `nv` of voice
slots, the length `dlyLen` of the delay line, every bound of RANGE but those of its rows marked S, every default
of RANGE, and SMOOTH_K. A row marked S has only its default here. The upper bound
of `poFreq` is the factor of `SYS.FS`. -/
structure Settings where
  nv : Nat
  dlyLen : Nat
  sysFs : Range
  arBase : Range
  arStretch : Range
  arEntropy : Range
  arDetune : Range
  morphDflt : F
  resonanceDflt : F
  rfbDetune : Range
  rfbBase : Range
  modelAmpDflt : F
  modelOff : Range
  poFreq : Range
  phaseMod : Range
  envAttack : Range
  envDecay : Range
  envSustain : Range
  envRelease : Range
  fbCutoff : Range
  fbResDflt : F
  lfoRate : Range
  lfoDepth : Range
  lfoBpm : Range
  lfoDiv : Range
  fxMaster : Range
  fxSat : Range
  fxDlyTime : Range
  fxDlyFb : Range
  fxChMix : Range
  fxRvMix : Range
  smoothK : F
  deriving DecidableEq, Repr

/-- The row of a control (R36); the rows marked S take the bounds of the source (R35). -/
def Settings.range (T : Settings) : Control → Range
  | .sysFs => T.sysFs
  | .arBase => T.arBase
  | .arStretch => T.arStretch
  | .arEntropy => T.arEntropy
  | .arDetune => T.arDetune
  | .morph => unitRange T.morphDflt
  | .resonance => unitRange T.resonanceDflt
  | .rfbDetune => T.rfbDetune
  | .rfbBase => T.rfbBase
  | .modelAmp => unitRange T.modelAmpDflt
  | .modelOff => T.modelOff
  | .phaseMod => T.phaseMod
  | .envAttack => T.envAttack
  | .envDecay => T.envDecay
  | .envSustain => T.envSustain
  | .envRelease => T.envRelease
  | .fbCutoff => T.fbCutoff
  | .fbRes => unitRange T.fbResDflt
  | .lfoRate => T.lfoRate
  | .lfoDepth => T.lfoDepth
  | .lfoBpm => T.lfoBpm
  | .lfoDiv => T.lfoDiv
  | .fxMaster => T.fxMaster
  | .fxSat => T.fxSat
  | .fxDlyTime => T.fxDlyTime
  | .fxDlyFb => T.fxDlyFb
  | .fxChMix => T.fxChMix
  | .fxRvMix => T.fxRvMix

/-- The row of the oscillator frequency operand, whose upper bound is a factor of `SYS.FS` (R36, R135). -/
def Settings.poFreqRange (T : Settings) (fs : F) : Range :=
  ⟨T.poFreq.lo, F.mul T.poFreq.hi fs, T.poFreq.dflt⟩

/-- The reference values: NV (R12), DLY_LEN (R14), the table R36 prints, row by row, and SMOOTH_K (R14). -/
def referenceSettings : Settings where
  nv := 32
  dlyLen := 131072
  sysFs := ⟨F.lit 8000 1, F.lit 192000 1, F.lit 48000 1⟩
  arBase := ⟨F.zero, F.lit 20000 1, a4⟩
  arStretch := unitRange F.zero
  arEntropy := unitRange F.zero
  arDetune := unitRange F.zero
  morphDflt := F.zero
  resonanceDflt := F.zero
  rfbDetune := unitRange F.zero
  rfbBase := ⟨F.zero, F.lit 20000 1, a4⟩
  modelAmpDflt := F.zero
  modelOff := ⟨F.neg (F.lit 20000 1), F.lit 20000 1, F.zero⟩
  poFreq := ⟨F.zero, F.lit 1 2, F.zero⟩
  phaseMod := ⟨F.neg pmMax, pmMax, F.zero⟩
  envAttack := ⟨F.lit 1 100, F.lit 60000 1, F.lit 10 1⟩
  envDecay := ⟨F.lit 1 100, F.lit 60000 1, F.lit 100 1⟩
  envSustain := unitRange (F.lit 7 10)
  envRelease := ⟨F.lit 1 100, F.lit 60000 1, F.lit 500 1⟩
  fbCutoff := ⟨F.lit 20 1, F.lit 20000 1, F.lit 20000 1⟩
  fbResDflt := F.zero
  lfoRate := ⟨F.lit 1 100, F.lit 100 1, F.lit 1 1⟩
  lfoDepth := unitRange (F.lit 1 1)
  lfoBpm := ⟨F.lit 20 1, F.lit 300 1, F.lit 120 1⟩
  lfoDiv := ⟨F.lit 1 64, F.lit 64 1, F.lit 1 1⟩
  fxMaster := unitRange (F.lit 1 1)
  fxSat := unitRange F.zero
  fxDlyTime := ⟨F.lit 1 1000, F.lit 2 1, F.lit 1 4⟩
  fxDlyFb := ⟨F.zero, F.lit 95 100, F.zero⟩
  fxChMix := unitRange F.zero
  fxRvMix := unitRange F.zero
  smoothK := smoothK

/-- The row of effect parameter `p` (R302). -/
def fxControl (p : Fin nfx) : Control :=
  match p with
  | 0 => .fxMaster
  | 1 => .fxSat
  | 2 => .fxDlyTime
  | 3 => .fxDlyFb
  | 4 => .fxChMix
  | 5 => .fxRvMix

end Sys2Proof.Config
end

