-- ==== Sys2Proof/Machine/State.lean ====
section
/-!
DEFINITION. The machine state S of 10_state.md, every field of its tables, with the power-on values of
70_reset_and_hazards.md R400; the reasons a step can stop. State is plain data. The last group of fields
is the model's own: the command channels, the agents' order, the counters of free values and the settings.
-/

namespace Sys2Proof.Machine

open Sys2Proof Config

/-! ## Why a step can stop -/

/-- Faults. There is none: the hardware raises no exception, trap or interrupt, and every command that
decodes runs to completion (R380, R387). The type is empty, so no step can fault: safe. -/
inductive Fault where
  deriving DecidableEq, Repr

/-- Refusals: what the spec gives no meaning. All but the first and last are raised by `step` while it
decodes the head of a channel; a claim says nothing of a run that contains one (R112), so each is safe. -/
inductive Refusal where
  /-- An instruction without a meaning in this model: raised by no arm of `exec`. Safe. -/
  | notModelled (mnemonic : String)
  /-- A header whose (unit, func) pair is no row of R103: raised by `step` (R112, U1). Safe. -/
  | reservedHeader
  /-- A header with a non-zero must-be-zero field: raised by `step` (R113, U2). Safe. -/
  | reservedField
  /-- A voice slot not below NV, or an LFO number above 1: raised by `step` (R114, U3). Safe. -/
  | instanceOutOfRange
  /-- An effect parameter id above 5: raised by `step` (R114, U3). Safe. -/
  | paramOutOfRange
  /-- A command on a port that does not admit it: raised by `step` (R388, U4). Safe. -/
  | notAdmitted
  /-- A term of Instr that stands for no command, a LOAD_MODEL without 128 operands (R100): raised by the
  two LOAD_MODEL meanings, never reached from `step`, which decodes whole commands only. Safe. -/
  | operandCount
  deriving DecidableEq, Repr

/-! ## The units -/

/-- `SYS` (R37). -/
structure SysState where
  fs : F
  block : BitVec 16
  deriving DecidableEq, Repr

/-- One oscillator (R38). -/
structure OscState where
  phase : F
  freq : F
  inc : F
  deriving DecidableEq, Repr

/-- One spectral model store (R39). -/
structure ModelState where
  amp : Vector F np
  off : Vector F np
  valid : Bool
  deriving DecidableEq, Repr

/-- `AR[v]` (R38 to R40). -/
structure ArState where
  osc : Vector OscState nosc
  model : Vector ModelState nslot
  base : F
  stretch : F
  entropy : F
  detune : F
  amp : Vector F nosc
  norm : F
  rng : Word
  dirty : Bool
  deriving DecidableEq, Repr

/-- One filter of the resonator filter bank (R41): there is no `b1`. -/
structure FiltState where
  b0 : F
  b2 : F
  a1 : F
  a2 : F
  amp : F
  z1 : F
  z2 : F
  deriving DecidableEq, Repr

/-- `RFB[v]` (R39, R41 to R43). -/
structure RfbState where
  filt : Vector FiltState nosc
  model : Vector ModelState nslot
  base : F
  lastMx : F
  lastMy : F
  lastRes : F
  lastDet : F
  dirty : Bool
  deriving DecidableEq, Repr

/-- The envelope stages (R44), in the order of their codes (R109). -/
inductive Stage where
  | idle
  | attack
  | decay
  | sustain
  | release
  deriving DecidableEq, Repr

/-- `ENV[v][e]` (R45, R46). -/
structure EnvState where
  st : Stage
  level : F
  attMs : F
  decMs : F
  sus : F
  relMs : F
  mA : F
  mD : F
  mR : F
  dirty : Bool
  deriving DecidableEq, Repr

/-- The filter modes, in the order of their codes (R110). -/
inductive FilterMode where
  | lowPass
  | highPass
  | bandPass
  | notch
  deriving DecidableEq, Repr

/-- `FB[v]` (R47, R48). -/
structure FbState where
  cutoff : F
  res : F
  mode : FilterMode
  b0 : F
  b1 : F
  b2 : F
  a1 : F
  a2 : F
  z1 : F
  z2 : F
  dirty : Bool
  deriving DecidableEq, Repr

/-- The LFO waveforms, in the order of their codes (R110). -/
inductive Wave where
  | sine
  | triangle
  | sawUp
  | sawDown
  | square
  | sampleHold
  deriving DecidableEq, Repr

/-- `LFO[j]` (R49, R50). -/
structure LfoState where
  phase : F
  rate : F
  depth : F
  wave : Wave
  bpm : F
  div : F
  inc : F
  shPrev : F
  shNext : F
  rng : Word
  last : F
  sync : Bool
  dirty : Bool
  deriving DecidableEq, Repr

/-- `FX` (R51, R52). `ch` and `rv` are the chorus and reverb kernels' own states, which stand in place of
`ch`, `ch_w`, `rv`, `rv_w` where the kernels are open (R52). -/
structure FxState where
  pend : Vector F nfx
  cur : Vector F nfx
  g : F
  dly : Line
  dlyW : Nat
  ch : KernelState
  rv : KernelState
  deriving DecidableEq, Repr

/-! ## The whole state -/

/-- The machine state (10_state.md) and the model's own fields. The machine has the voice slots below
`settings.nv`; the places from there to the 256th are no part of it (assumption 30). -/
structure State where
  sys : SysState
  ar : Vector ArState nvMax
  rfb : Vector RfbState nvMax
  env : Vector (Vector EnvState 2) nvMax
  fb : Vector FbState nvMax
  lfo : Vector LfoState nlfo
  fx : FxState
  /-- `QA`: results of port AUD not yet taken by its host, head first (R88). -/
  qa : List Word
  /-- `QC`: results of port CTL (R88). -/
  qc : List Word
  /-- Model's own: words presented on AUD's command channel and not yet consumed (R82, R85). -/
  cmdA : List Word
  /-- Model's own: words presented on CTL's command channel and not yet consumed (R82, R85). -/
  cmdC : List Word
  /-- Model's own: the ports in the order their commands are to be taken (R90; assumption 2). -/
  order : List Port
  /-- Model's own: how many commands have been accepted; the opaque arbiter's argument (assumption 2). -/
  turn : Nat
  /-- Model's own: the port the executing command was issued on (R24, R88; assumption 3). -/
  port : Port
  /-- Model's own: how many NaN patterns have been drawn for result words (assumption 4). -/
  nanDraws : Nat
  /-- Model's own: the data parameters NV, DLY_LEN, RANGE and SMOOTH_K (R12, R14, R36, U13 to U16), which no
  command writes; the configuration stands in State because `exec` takes no other argument (assumption 9). -/
  settings : Settings
  deriving DecidableEq, Repr

/-! ## Power-on (R400) -/

/-- An oscillator after power-on (R38). -/
def OscState.reset : OscState := ⟨F.zero, F.zero, F.zero⟩

/-- An empty model slot (R39). -/
def ModelState.reset : ModelState := ⟨.replicate np F.zero, .replicate np F.zero, false⟩

/-- `AR[v]` after power-on (R40). -/
def ArState.powerOn (T : Settings) : ArState where
  osc := .replicate nosc OscState.reset
  model := .replicate nslot ModelState.reset
  base := T.arBase.dflt
  stretch := T.arStretch.dflt
  entropy := T.arEntropy.dflt
  detune := T.arDetune.dflt
  amp := .replicate nosc F.zero
  norm := F.zero
  rng := 0#32
  dirty := true

/-- A filter of the bank after power-on (R43). -/
def FiltState.reset : FiltState := ⟨F.zero, F.zero, F.zero, F.zero, F.zero, F.zero, F.zero⟩

/-- `RFB[v]` after power-on (R43). -/
def RfbState.powerOn (T : Settings) : RfbState where
  filt := .replicate nosc FiltState.reset
  model := .replicate nslot ModelState.reset
  base := T.rfbBase.dflt
  lastMx := F.zero
  lastMy := F.zero
  lastRes := F.zero
  lastDet := F.zero
  dirty := true

/-- `ENV[v][e]` after power-on (R45, R46). -/
def EnvState.powerOn (T : Settings) : EnvState where
  st := .idle
  level := F.zero
  attMs := T.envAttack.dflt
  decMs := T.envDecay.dflt
  sus := T.envSustain.dflt
  relMs := T.envRelease.dflt
  mA := F.zero
  mD := F.zero
  mR := F.zero
  dirty := true

/-- `FB[v]` after power-on (R47, R48). -/
def FbState.powerOn (T : Settings) : FbState where
  cutoff := T.fbCutoff.dflt
  res := T.fbResDflt
  mode := .lowPass
  b0 := F.zero
  b1 := F.zero
  b2 := F.zero
  a1 := F.zero
  a2 := F.zero
  z1 := F.zero
  z2 := F.zero
  dirty := true

/-- `LFO[j]` after power-on (R49, R50). -/
def LfoState.powerOn (T : Settings) : LfoState where
  phase := F.zero
  rate := T.lfoRate.dflt
  depth := T.lfoDepth.dflt
  wave := .sine
  bpm := T.lfoBpm.dflt
  div := T.lfoDiv.dflt
  inc := F.zero
  shPrev := F.zero
  shNext := F.zero
  rng := 0#32
  last := F.zero
  sync := false
  dirty := true

/-- The RANGE defaults of the six effect parameters (R51, R302). -/
def fxDefaults (T : Settings) : Vector F nfx :=
  #v[T.fxMaster.dflt, T.fxSat.dflt, T.fxDlyTime.dflt, T.fxDlyFb.dflt, T.fxChMix.dflt, T.fxRvMix.dflt]

/-- The reset state of a chorus or reverb kernel: an empty record, which the stand-ins read as a line of
zeros and the index 0 (R52, R307, R312, R400; assumption 7). -/
def kernelReset : KernelState := ⟨Line.cleared, 0, []⟩

/-- `FX` after power-on (R51, R52). -/
def FxState.powerOn (T : Settings) : FxState where
  pend := fxDefaults T
  cur := fxDefaults T
  g := F.lit 1 1
  dly := Line.cleared
  dlyW := 0
  ch := kernelReset
  rv := kernelReset

/-- The machine right after the reset input is released (R400), at given settings: every parameter register
holds its default of RANGE (R36; assumption 9), and the model's own fields the values of assumptions 1 to 4. -/
def State.powerOn (T : Settings) : State where
  sys := ⟨T.sysFs.dflt, 0#16⟩
  ar := .replicate nvMax (ArState.powerOn T)
  rfb := .replicate nvMax (RfbState.powerOn T)
  env := .replicate nvMax (.replicate 2 (EnvState.powerOn T))
  fb := .replicate nvMax (FbState.powerOn T)
  lfo := .replicate nlfo (LfoState.powerOn T)
  fx := FxState.powerOn T
  qa := []
  qc := []
  cmdA := []
  cmdC := []
  order := []
  turn := 0
  port := .aud
  nanDraws := 0
  settings := T

/-! ## Power-on at the reference settings (R400, R36) -/

/-- `AR[v]` at the values R400 prints. -/
def ArState.reset : ArState := ArState.powerOn referenceSettings
/-- `RFB[v]` at the values R400 prints. -/
def RfbState.reset : RfbState := RfbState.powerOn referenceSettings
/-- `ENV[v][e]` at the values R400 prints. -/
def EnvState.reset : EnvState := EnvState.powerOn referenceSettings
/-- `FB[v]` at the values R400 prints. -/
def FbState.reset : FbState := FbState.powerOn referenceSettings
/-- `LFO[j]` at the values R400 prints. -/
def LfoState.reset : LfoState := LfoState.powerOn referenceSettings
/-- `FX` at the values R400 prints. -/
def FxState.reset : FxState := FxState.powerOn referenceSettings

/-- The machine right after the reset input is released, at the values R400 prints. -/
def State.reset : State := State.powerOn referenceSettings

end Sys2Proof.Machine
end

