-- ==== Sys2Proof/Machine/Flags.lean ====
section
/-!
DEFINITION. The flags of the machine (10_state.md R33): the dirty flag of each unit, "cached derived state
is stale", set by the setters and SYS.PREPARE and cleared by the recomputation (R40, R43, R46, R48, R50,
R159, R196). There are no condition codes and no arithmetic status flags. The other two flags, a
model's validity and the LFO's sync bit, are ordinary fields written by LOAD_MODEL and LFO.SET_SYNC.
-/

namespace Sys2Proof.Machine

open Sys2Proof Config

/-- Set `AR[v].dirty` (R40, R159). -/
def ArState.markDirty (a : ArState) : ArState := { a with dirty := true }
/-- Set `RFB[v].dirty` (R43, R196). -/
def RfbState.markDirty (b : RfbState) : RfbState := { b with dirty := true }
/-- Set `ENV[v][e].dirty` (R46). -/
def EnvState.markDirty (n : EnvState) : EnvState := { n with dirty := true }
/-- Set `FB[v].dirty` (R48). -/
def FbState.markDirty (b : FbState) : FbState := { b with dirty := true }
/-- Set `LFO[j].dirty` (R50). -/
def LfoState.markDirty (l : LfoState) : LfoState := { l with dirty := true }

/-- Set every dirty flag, as SYS.PREPARE does (R331). -/
def State.markAllDirty (s : State) : State :=
  { s with
    ar := Vector.ofFn fun v => s.ar[v].markDirty
    rfb := Vector.ofFn fun v => s.rfb[v].markDirty
    env := Vector.ofFn fun v => Vector.ofFn fun e => s.env[v][e].markDirty
    fb := Vector.ofFn fun v => s.fb[v].markDirty
    lfo := Vector.ofFn fun j => s.lfo[j].markDirty }

end Sys2Proof.Machine
end

