-- ==== Sys2Proof/Machine/Numeric.lean ====
section
/-!
DEFINITION. The open functions under their contracts (00_scope.md R15, R21; 41 R153; 46 R306, R307,
R309; D41; 60 R384). Each contract holds by construction: a raw function that meets it is used as it is, and one that
breaks it is corrected at the arguments where it does. So these definitions range over exactly the
functions the spec allows, and every lemma of Laws/Numeric.lean holds for all of them.
-/

namespace Sys2Proof.Machine

open Sys2Proof Config

/-- `fexp`: in `[0, 1)` for finite `x < 0`; a NaN for a NaN (R21). The property wins over R21's reference function,
which rounds to 1.0 for `-2^-25 <= x < 0`: the model's choice (assumption 31). -/
def fexp (P : Params) (x : F) : F :=
  if x.isNan then .nan
  else if x.isFinite && F.lt x F.zero then
    (if F.ge (P.rawExp x) F.zero && F.lt (P.rawExp x) F.one then P.rawExp x else F.zero)
  else P.rawExp x

/-- A value in `[-1, 1]`: the given one if it is, else `0.0`. -/
def boundUnit (r : F) : F := if F.le (F.neg F.one) r && F.le r F.one then r else F.zero

/-- `fsin`: `fsin(0.0) = 0.0`, in `[-1, 1]` for finite `x`, a NaN for a NaN (R21). -/
def fsin (P : Params) (x : F) : F :=
  if x.isNan then .nan
  else if x = F.zero then F.zero
  else if x.isFinite then boundUnit (P.rawSin x)
  else P.rawSin x

/-- `fcos`: in `[-1, 1]` for finite `x`, a NaN for a NaN (R21). -/
def fcos (P : Params) (x : F) : F :=
  if x.isNan then .nan
  else if x.isFinite then boundUnit (P.rawCos x)
  else P.rawCos x

/-- `fpow`: `fpow(x, 1.0) = x`, `fpow(1.0, y) = 1.0` for finite `y`, a NaN for a NaN argument (R21). -/
def fpow (P : Params) (x y : F) : F :=
  if x.isNan || y.isNan then .nan
  else if y = F.one then x
  else if x = F.one && y.isFinite then F.one
  else P.rawPow x y

/-- `rng_bipolar`: in `[-1, 1)` for every state (R153). -/
def rngBipolar (P : Params) (s : Word) : F :=
  if F.le (F.neg F.one) (P.rawBipolar s) && F.lt (P.rawBipolar s) F.one then P.rawBipolar s else F.zero

/-- `draw(rng)`: the advanced generator register, and the value drawn from it (R24, R153). -/
def draw (P : Params) (rng : Word) : Word × F := (P.rngNext rng, rngBipolar P (P.rngNext rng))

/-- Equal in value: IEEE equality, or both NaN. -/
def sameValue (a b : F) : Bool := F.feq a b || (a.isNan && b.isNan)

/-- `0.0 <= a <= 1.0`: what an effect amount or mix is (R306, R307). -/
def inUnit (a : F) : Bool := F.le F.zero a && F.le a F.one

/-- An effect's output sample, from what the raw function answers, where the input and the state are finite
and the amount is in `[0, 1]`: the input in value at amount 0.0, and finite (R306, R307, R309; D41). In value leaves the sign of a
zero to the raw function: the model's choice against R318's sentence on bits (assumption 28). -/
def effectOut (x amount out : F) : F :=
  if F.feq amount F.zero then (if F.feq out x then out else x)
  else if out.isFinite then out else x

/-- What a non-finite input's output or written sample is: not finite, the input itself where the raw function
would make it so (R384, U8; assumption 29). -/
def carried (x out : F) : F := if out.isFinite then x else out

/-- SAT_FN on an input whose sign bit is clear, the amount in `[0, 1]` (R306; D41). Odd and not finite for a
non-finite input (R384) leave a NaN for a NaN. -/
def satHalf (P : Params) (x a : F) : F :=
  if x.isFinite then effectOut x a (P.rawSat x a)
  else if x.isNan then .nan
  else carried x (P.rawSat x a)

/-- `SAT_FN(x, a)`: total; at an amount in `[0, 1]` the input in value at amount 0.0 for finite `x`, odd in `x` (R306), finite for
finite input (D41) and not for any other (R384). -/
def satFn (P : Params) (x a : F) : F :=
  if !inUnit a then P.rawSat x a
  else if x.signBit then
    (if sameValue (P.rawSat x a) (F.neg (satHalf P (F.neg x) a)) then P.rawSat x a
     else F.neg (satHalf P (F.neg x) a))
  else satHalf P x a

/-- Every element of the line is finite. -/
def lineFinite (l : Line) : Bool := l.entries.all fun e => e.2.isFinite

/-- Write a kernel's elements into its line (R307, R309). -/
def applyWrites (l : Line) (ws : List (Nat × F)) : Line := ws.foldl (fun m e => m.set e.1 e.2) l

/-- The line after a call of a kernel at a mix in `[0, 1]`, from the line `new` the raw kernel would leave. A finite
line stays finite for a finite input (D41), unchanged where the raw kernel would break that; a non-finite input
lodges in it, at the write index where the raw kernel would keep it out (R384, R386; assumption 29). -/
def kernelLine (k : KernelState) (x : F) (new : Line) : Line :=
  if x.isFinite then (if lineFinite k.line && !lineFinite new then k.line else new)
  else if lineFinite new then new.set k.index x
  else new

/-- A kernel's new state from what the raw kernel answers. -/
def kernelState (k : KernelState) (x mix : F) (r : KernelStep) : KernelState where
  line := if inUnit mix then kernelLine k x (applyWrites k.line r.writes) else applyWrites k.line r.writes
  index := r.index
  own := r.own

/-- A kernel's output sample at a mix in `[0, 1]`: for finite input and state the input in value at mix 0.0, and
finite (R307, R309; D41); for a non-finite input not finite (R384). For a finite input and a non-finite state it is
the raw kernel's, finite or not, which no rule fixes (assumption 29). -/
def kernelOut (k : KernelState) (x mix out : F) : F :=
  if !inUnit mix then out
  else if !x.isFinite then carried x out
  else if lineFinite k.line then effectOut x mix out
  else out

/-- One call of a kernel under its contract: the new state and the output sample (R307, R309). -/
def kernelCall (raw : KernelState → F → F → KernelStep) (k : KernelState) (x mix : F) : KernelState × F :=
  (kernelState k x mix (raw k x mix), kernelOut k x mix (raw k x mix).out)

/-- `CHORUS_KERNEL` (R307). -/
def chorusKernel (P : Params) (k : KernelState) (x mix : F) : KernelState × F := kernelCall P.rawChorus k x mix

/-- `REVERB_KERNEL`, with the contract of `CHORUS_KERNEL` (R309). -/
def reverbKernel (P : Params) (k : KernelState) (x mix : F) : KernelState × F := kernelCall P.rawReverb k x mix

/-- The pattern of a NaN that becomes the n-th NaN result word: some NaN pattern, which one is free
(R19, U9). -/
def nanPattern (P : Params) (n : Nat) : Word := F.toNanPattern (P.nanDraw n)

end Sys2Proof.Machine
end

