-- ==== Sys2Proof/Machine/Operands.lean ====
section
/-!
DEFINITION. Every form an operand of a command takes (30_encoding.md R106, R107): control operands through
clampv with a row of RANGE (00_scope.md R22, 10_state.md R36, 60_exceptions.md R383), enumerations with
their default (R110), signal operands as they are (R384), and the codes of results (R109).
-/

namespace Sys2Proof.Machine

open Sys2Proof Config

/-- `clampv(x, lo, hi, d)`: the default for a non-finite value, the nearer bound for a finite one out of
range, else the value (R22; 90_conflicts.md C3). -/
def clampv (x : F) (r : Range) : F :=
  if !x.isFinite then r.dflt
  else if F.lt x r.lo then r.lo
  else if F.gt x r.hi then r.hi
  else x

/-- A control operand: its word as a value, through its row of RANGE (R107, R36, R383). -/
def control (T : Settings) (c : Control) (w : Word) : F := clampv (F.asF w) (T.range c)

/-- The oscillator frequency operand, whose upper bound is half the sample rate at the reference settings
(R36, R135). -/
def freqOperand (T : Settings) (fs : F) (w : Word) : F := clampv (F.asF w) (T.poFreqRange fs)

/-- The operand of `FX.SET p` (R313, R302). -/
def fxOperand (T : Settings) (p : Fin nfx) (w : Word) : F := control T (fxControl p) w

/-- A signal operand: an audio sample, not validated (R384). -/
def signal (w : Word) : F := F.asF w

/-- The filter mode code; a code above 3 selects LowPass (R110, R258). -/
def filterModeOf (m : BitVec 16) : FilterMode :=
  if m = 1#16 then .highPass
  else if m = 2#16 then .bandPass
  else if m = 3#16 then .notch
  else .lowPass

/-- The waveform code; a code above 5 selects Sine (R110, R278). -/
def waveOf (w : BitVec 16) : Wave :=
  if w = 1#16 then .triangle
  else if w = 2#16 then .sawUp
  else if w = 3#16 then .sawDown
  else if w = 4#16 then .square
  else if w = 5#16 then .sampleHold
  else .sine

/-- The sync code; any code but 1 selects free-running (R110, R279). -/
def syncOf (m : BitVec 16) : Bool := decide (m = 1#16)

/-- The stage code returned by ENV.GET_STATE, zero-extended (R109, R239). -/
def stageCode : Stage → Word
  | .idle => 0#32
  | .attack => 1#32
  | .decay => 2#32
  | .sustain => 3#32
  | .release => 4#32

end Sys2Proof.Machine
end

