-- ==== Sys2Proof/Machine/Ops.lean ====
section
/-!
DEFINITION. The named operations every unit shares: writing one unit instance of the state, the result
channel (20_memory.md R88), the model store and its bilinear interpolation (41 R152), and what the hosts
do to the machine between steps (R82, R88, R400). The hardware takes no exception and returns from none
(60_exceptions.md R380, R387), so there is no such operation here.
-/

namespace Sys2Proof.Machine

open Sys2Proof Config

/-- The outcome of a meaning. -/
abbrev Result := Host.Outcome State Fault Refusal

/-! ## One unit instance (R55) -/

/-- Replace `AR[v]`. -/
def State.setAr (s : State) (v : Fin nvMax) (a : ArState) : State := { s with ar := s.ar.set v a }
/-- Replace `RFB[v]`. -/
def State.setRfb (s : State) (v : Fin nvMax) (b : RfbState) : State := { s with rfb := s.rfb.set v b }
/-- Replace `ENV[v][e]`. -/
def State.setEnv (s : State) (v : Fin nvMax) (e : Fin 2) (n : EnvState) : State :=
  { s with env := s.env.set v (s.env[v].set e n) }
/-- Replace `FB[v]`. -/
def State.setFb (s : State) (v : Fin nvMax) (b : FbState) : State := { s with fb := s.fb.set v b }
/-- Replace `LFO[j]`. -/
def State.setLfo (s : State) (j : Fin nlfo) (l : LfoState) : State := { s with lfo := s.lfo.set j l }
/-- Replace `FX`. -/
def State.setFx (s : State) (x : FxState) : State := { s with fx := x }

/-! ## The result channel (R24, R88) -/

/-- `result(w)`: append one word to the queue of the port that issued the command (R88). -/
def State.pushWord (s : State) (w : Word) : State :=
  match s.port with
  | .aud => { s with qa := s.qa ++ [w] }
  | .ctl => { s with qc := s.qc ++ [w] }

/-- Count one NaN pattern as drawn when the value is a NaN (assumption 4). -/
def State.countNan (s : State) (x : F) : State :=
  if x.isNan then { s with nanDraws := s.nanDraws + 1 } else s

/-- `result(bits(x))` (R88): the pattern of the value; for a NaN a free NaN pattern (R19, U9). The pattern is drawn
anew at each result, so that a repeated GET_* of a NaN may return another word: U9 is followed against R89's 'the same
word', the model's choice (assumption 34). -/
def State.pushReal (P : Params) (s : State) (x : F) : State :=
  (s.pushWord (F.bitsOr (nanPattern P s.nanDraws) x)).countNan x

/-! ## Model stores (R39, R152) -/

/-- Operand word `k` of a command of format H128. -/
def operandAt (ops : List Word) (k : Nat) : Word := ops.getD k 0#32

/-- The model a LOAD_MODEL writes: 64 amplitudes, then 64 offsets, each validated, and valid
(R161, R201, R107). -/
def loadedModel (T : Settings) (ops : List Word) : ModelState where
  amp := Vector.ofFn fun k => control T .modelAmp (operandAt ops k.val)
  off := Vector.ofFn fun k => control T .modelOff (operandAt ops (np + k.val))
  valid := true

/-- One entry of a model; a slot never loaded reads as zeros (R152). -/
def modelEntry (m : ModelState) (key : ModelState → Vector F np) (k : Fin np) : F :=
  if m.valid then (key m)[k] else F.zero

/-- `morph(U, key, k, mx, my)`: bilinear interpolation across the four models, morph X from A to B and
from C to D, morph Y from the A-B edge to the C-D edge (R152). -/
def morph (m : Vector ModelState nslot) (key : ModelState → Vector F np) (k : Fin np) (mx my : F) : F :=
  F.lerp (F.lerp (modelEntry m[0] key k) (modelEntry m[1] key k) mx)
    (F.lerp (modelEntry m[2] key k) (modelEntry m[3] key k) mx) my

/-! ## The two halves of an index in 0..127 (R27) -/

/-- The partial an oscillator or filter index belongs to: `i` itself or, for a unison twin, `i - 64`. -/
def partialOf (i : Fin nosc) : Fin np := Fin.ofNat np i.val

/-- Is this index a primary (below 64)? -/
def isPrimary (i : Fin nosc) : Bool := decide (i.val < np)

/-! ## What the hosts do between steps -/

/-- A host presents words on its port's command channel (R82, R85). -/
def State.present (s : State) (p : Port) (ws : List Word) : State :=
  match p with
  | .aud => { s with cmdA := s.cmdA ++ ws }
  | .ctl => { s with cmdC := s.cmdC ++ ws }

/-- A host removes the word at the head of its port's result queue (R88). -/
def State.takeResult (s : State) (p : Port) : Option (Word × State) :=
  match p with
  | .aud =>
    match s.qa with
    | [] => none
    | w :: rest => some (w, { s with qa := rest })
  | .ctl =>
    match s.qc with
    | [] => none
    | w :: rest => some (w, { s with qc := rest })

/-- The reset input (R400, R401): all state is lost, commands and results in flight among it. The settings
are the machine's configuration and stay. -/
def State.assertRst (s : State) : State := State.powerOn s.settings

end Sys2Proof.Machine
end

