-- ==== Sys2Proof/Syntax.lean ====
section
/-!
DEFINITION. The 53 commands of 30_encoding.md R103, one constructor per row of the opcode table, in the
table's order. Indices are bounded by their types (R105, R106, R114); operand words are the raw words
(R107), so that no bit of a command is lost.
-/

namespace Sys2Proof

open Config

/-- A voice slot `v`: any number the `inst` field holds (R101, R105). Whether the machine has the slot is
`Instr.wellFormed`'s question. -/
abbrev Voice := Fin nvMax
/-- An envelope select `e`: 0 amplitude, 1 filter (R106, R111). -/
abbrev EnvSel := Fin 2
/-- An LFO number `j` (R105). -/
abbrev LfoSel := Fin nlfo
/-- An oscillator or filter index `i` (R106). -/
abbrev OscIdx := Fin nosc
/-- A model slot `s`: 0 A, 1 B, 2 C, 3 D (R106, R111). -/
abbrev SlotIdx := Fin nslot
/-- An effect parameter id `p` (R106, R302). -/
abbrev FxIdx := Fin nfx

/-- The commands (R103). -/
inductive Instr where
  | sysReset
  | sysPrepare (blk : BitVec 16) (fs : Word)
  | arReset (v : Voice)
  | arLoadModel (v : Voice) (s : SlotIdx) (ops : List Word)
  | arSetBase (v : Voice) (f : Word)
  | arSetStretch (v : Voice) (x : Word)
  | arSetEntropy (v : Voice) (x : Word)
  | arSetDetune (v : Voice) (x : Word)
  | arSeed (v : Voice) (seed : Word)
  | arUpdate (v : Voice) (mx my : Word)
  | arProcess (v : Voice)
  | arGetAmp (v : Voice) (i : OscIdx)
  | poSetFreq (v : Voice) (i : OscIdx) (f : Word)
  | poReset (v : Voice) (i : OscIdx)
  | poStep (v : Voice) (i : OscIdx) (pm : Word)
  | rfbReset (v : Voice)
  | rfbLoadModel (v : Voice) (s : SlotIdx) (ops : List Word)
  | rfbSetBase (v : Voice) (f : Word)
  | rfbUpdate (v : Voice) (mx my res det : Word)
  | rfbProcess (v : Voice) (x : Word)
  | rfbGetAmp (v : Voice) (i : OscIdx)
  | envReset (v : Voice) (e : EnvSel)
  | envSetAttack (v : Voice) (e : EnvSel) (t : Word)
  | envSetDecay (v : Voice) (e : EnvSel) (t : Word)
  | envSetSustain (v : Voice) (e : EnvSel) (level : Word)
  | envSetRelease (v : Voice) (e : EnvSel) (t : Word)
  | envNoteOn (v : Voice) (e : EnvSel)
  | envNoteOff (v : Voice) (e : EnvSel)
  | envProcess (v : Voice) (e : EnvSel)
  | envGetLevel (v : Voice) (e : EnvSel)
  | envGetState (v : Voice) (e : EnvSel)
  | fbReset (v : Voice)
  | fbSetCutoff (v : Voice) (f : Word)
  | fbSetRes (v : Voice) (r : Word)
  | fbSetMode (v : Voice) (mode : BitVec 16)
  | fbProcess (v : Voice) (x : Word)
  | lfoReset (j : LfoSel)
  | lfoSetRate (j : LfoSel) (r : Word)
  | lfoSetDepth (j : LfoSel) (d : Word)
  | lfoSetWave (j : LfoSel) (wave : BitVec 16)
  | lfoSetSync (j : LfoSel) (sync : BitVec 16)
  | lfoSetBpm (j : LfoSel) (b : Word)
  | lfoSetDiv (j : LfoSel) (d : Word)
  | lfoSeed (j : LfoSel) (seed : Word)
  | lfoProcess (j : LfoSel)
  | lfoGetValue (j : LfoSel)
  | lfoProcessBlock (j : LfoSel) (count : BitVec 16)
  | fxReset
  | fxSet (p : FxIdx) (x : Word)
  | fxLatch
  | fxModAdd (p : FxIdx) (delta : Word)
  | fxProcess (x : Word)
  | fxGetParam (p : FxIdx)
  deriving DecidableEq, Repr

end Sys2Proof
end

