-- ==== Sys2Proof/Machine/Oscillator.lean ====
section
/-!
DEFINITION. The phase-accumulator oscillator (40_oscillator.md): SIN01, po_assign, po_step and the three
PO commands.
-/

namespace Sys2Proof.Machine

open Sys2Proof Config

/-- `SIN01(p) = fsin(TWO_PI * p)` (R132). -/
def sin01 (P : Params) (p : F) : F := fsin P (F.mul twoPi p)

/-- `po_assign(o, f)`: frequency and increment; the phase is not touched (R133). -/
def poAssign (fs : F) (o : OscState) (f : F) : OscState := { o with freq := f, inc := F.div f fs }

/-- The sample of `po_step(o, pm)`: the sine of the phase held before the advance (R134). -/
def poOut (P : Params) (o : OscState) (pm : F) : F := sin01 P (F.wrap01 (F.add o.phase pm))

/-- The advance of `po_step` (R134); the modulation does not enter the accumulator. -/
def poAdvance (o : OscState) : OscState := { o with phase := F.wrap01 (F.add o.phase o.inc) }

/-- Clear one phase (R136, R160). -/
def OscState.clearPhase (o : OscState) : OscState := { o with phase := F.zero }

/-- Replace one oscillator of `AR[v]`. -/
def ArState.setOsc (a : ArState) (i : Fin nosc) (o : OscState) : ArState :=
  { a with osc := a.osc.set i o }

/-- `PO.SET_FREQ v.o<i>, f` (R135). -/
def execPoSetFreq (v : Voice) (i : OscIdx) (f : Word) (s : State) : Result :=
  .next (s.setAr v (s.ar[v].setOsc i (poAssign s.sys.fs s.ar[v].osc[i] (freqOperand s.settings s.sys.fs f))))

/-- `PO.RESET v.o<i>` (R136). -/
def execPoReset (v : Voice) (i : OscIdx) (s : State) : Result :=
  .next (s.setAr v (s.ar[v].setOsc i s.ar[v].osc[i].clearPhase))

/-- `PO.STEP v.o<i>, pm` (R137). -/
def execPoStep (v : Voice) (i : OscIdx) (pm : Word) (s : State) : Result :=
  .next ((s.setAr v (s.ar[v].setOsc i (poAdvance s.ar[v].osc[i]))).pushReal params
    (poOut params s.ar[v].osc[i] (control s.settings .phaseMod pm)))

end Sys2Proof.Machine
end

