-- ==== Sys2Proof/Machine/Additive.lean ====
section
/-!
DEFINITION. The additive resonator (41_additive_resonator.md): how AR.UPDATE derives 128 frequencies and
amplitudes from four models, how AR.PROCESS sums 128 oscillators, and the ten AR commands.
-/

namespace Sys2Proof.Machine

open Sys2Proof Config

/-! ## AR.UPDATE (R154 to R157, R167) -/

/-- `lim = K_AR_HI * SYS.FS` (R155). -/
def arLimit (fs : F) : F := F.mul kArHi fs

/-- The exponent `1.0 + stretch * 0.5` (R154). -/
def arExponent (a : ArState) : F := F.add F.one (F.mul a.stretch arStretchK)

/-- `f_k`, the frequency of primary partial `k` (R154). -/
def arFreq (P : Params) (a : ArState) (k : Fin np) (mx my : F) : F :=
  F.add (F.mul a.base (fpow P (F.ofNat (k.val + 1)) (arExponent a))) (morph a.model (·.off) k mx my)

/-- Frequency and amplitude of primary partial `k`, or none when it is muted (R155). The comparison is IEEE's
(R18), so `f_k = +inf`, which an open `fpow` can give, is muted: the model's choice against R155's sentence on
a non-finite `f_k` (assumption 23). -/
def arPrimary (P : Params) (fs : F) (a : ArState) (k : Fin np) (mx my : F) : Option (F × F) :=
  if F.gt (arFreq P a k mx my) (arLimit fs) then none
  else some (arFreq P a k mx my, morph a.model (·.amp) k mx my)

/-- The frequency of the unison twin of a partial at frequency `f` (R156). -/
def arTwinFreq (a : ArState) (f : F) : F := F.mul f (F.add F.one a.detune)

/-- Frequency and amplitude of the unison twin of partial `k`, or none when it is muted (R156). -/
def arTwin (P : Params) (fs : F) (a : ArState) (k : Fin np) (mx my : F) : Option (F × F) :=
  match arPrimary P fs a k mx my with
  | none => none
  | some (f, amp) =>
    if F.fne a.detune F.zero && !F.gt (arTwinFreq a f) (arLimit fs) then
      some (arTwinFreq a f, F.mul kUni amp)
    else none

/-- Frequency and amplitude of oscillator `i`, or none when it is muted (R155, R156). -/
def arVoicing (P : Params) (fs : F) (a : ArState) (mx my : F) (i : Fin nosc) : Option (F × F) :=
  if isPrimary i then arPrimary P fs a (partialOf i) mx my else arTwin P fs a (partialOf i) mx my

/-- The sum of R157: the amplitudes of the unmuted oscillators, in index order, each addition rounded. -/
def arSum (parts : Vector (Option (F × F)) nosc) : F :=
  (List.finRange nosc).foldl
    (fun acc i => match parts[i] with
      | some (_, amp) => F.add acc amp
      | none => acc) F.zero

/-- `norm <- if S > 0.0 then 1.0 / S else 0.0` (R157). The quotient overflows to `+inf` for a positive sum of
at most 2^-128: the model's choice against the finite norm of R383 and R386 and the bound of R170
(assumption 24). -/
def arNorm (sum : F) : F := if F.gt sum F.zero then F.div F.one sum else F.zero

/-- Write the derived registers from the voicing of the 128 oscillators (R167). -/
def arApply (fs : F) (a : ArState) (parts : Vector (Option (F × F)) nosc) : ArState :=
  { a with
    osc := Vector.ofFn fun i => poAssign fs a.osc[i] (match parts[i] with
      | some (f, _) => f
      | none => F.zero)
    amp := Vector.ofFn fun i => match parts[i] with
      | some (_, amp) => amp
      | none => F.zero
    norm := arNorm (arSum parts)
    dirty := false }

/-- The effect of AR.UPDATE on one resonator, from validated morph operands (R167). -/
def arUpdate (P : Params) (fs : F) (a : ArState) (mx my : F) : ArState :=
  arApply fs a (Vector.ofFn (arVoicing P fs a mx my))

/-! ## AR.PROCESS (R158, R168) -/

/-- The weight of oscillator `i` and the generator after it: the normalised amplitude, jittered by one
draw when `entropy > 0.0` (R158). -/
def arWeight (P : Params) (a : ArState) (rng : Word) (i : Fin nosc) : Word × F :=
  if F.gt a.entropy F.zero then
    ((draw P rng).1,
     F.mul (F.mul a.amp[i] a.norm) (F.add F.one (F.mul a.entropy (draw P rng).2)))
  else (rng, F.mul a.amp[i] a.norm)

/-- One turn of the loop of R168: the generator and the accumulator after oscillator `i`. -/
def arAccumulate (P : Params) (a : ArState) (acc : Word × F) (i : Fin nosc) : Word × F :=
  ((arWeight P a acc.1 i).1,
   F.add acc.2 (F.mul (poOut P a.osc[i] F.zero) (arWeight P a acc.1 i).2))

/-- The generator and the sample after the whole loop of R168. -/
def arRender (P : Params) (a : ArState) : Word × F :=
  (List.finRange nosc).foldl (arAccumulate P a) (a.rng, F.zero)

/-- The resonator after AR.PROCESS: every oscillator stepped, the generator advanced (R168). -/
def arStep (P : Params) (a : ArState) : ArState :=
  { a with osc := Vector.ofFn fun i => poAdvance a.osc[i], rng := (arRender P a).1 }

/-! ## Commands -/

/-- Clear every phase (R160). -/
def ArState.clearPhases (a : ArState) : ArState :=
  { a with osc := Vector.ofFn fun i => a.osc[i].clearPhase }

/-- `AR.RESET v` (R160). -/
def execArReset (v : Voice) (s : State) : Result := .next (s.setAr v s.ar[v].clearPhases)

/-- `AR.LOAD_MODEL v, s, …` (R161). A term without 128 operands is no command (R100). -/
def execArLoadModel (v : Voice) (slot : SlotIdx) (ops : List Word) (s : State) : Result :=
  if ops.length = 128 then
    .next (s.setAr v (ArState.markDirty { s.ar[v] with model := s.ar[v].model.set slot (loadedModel s.settings ops) }))
  else .refused .operandCount

/-- `AR.SET_BASE v, f` (R162). -/
def execArSetBase (v : Voice) (f : Word) (s : State) : Result :=
  .next (s.setAr v (ArState.markDirty { s.ar[v] with base := control s.settings .arBase f }))

/-- `AR.SET_STRETCH v, x` (R163). -/
def execArSetStretch (v : Voice) (x : Word) (s : State) : Result :=
  .next (s.setAr v (ArState.markDirty { s.ar[v] with stretch := control s.settings .arStretch x }))

/-- `AR.SET_ENTROPY v, x` (R164): the dirty flag is not set (R159). -/
def execArSetEntropy (v : Voice) (x : Word) (s : State) : Result :=
  .next (s.setAr v { s.ar[v] with entropy := control s.settings .arEntropy x })

/-- `AR.SET_DETUNE v, x` (R165). -/
def execArSetDetune (v : Voice) (x : Word) (s : State) : Result :=
  .next (s.setAr v (ArState.markDirty { s.ar[v] with detune := control s.settings .arDetune x }))

/-- `AR.SEED v, w` (R166): the operand is a raw word. -/
def execArSeed (v : Voice) (seed : Word) (s : State) : Result :=
  .next (s.setAr v { s.ar[v] with rng := seed })

/-- `AR.UPDATE v, mx, my` (R167). -/
def execArUpdate (v : Voice) (mx my : Word) (s : State) : Result :=
  .next (s.setAr v (arUpdate params s.sys.fs s.ar[v] (control s.settings .morph mx) (control s.settings .morph my)))

/-- `AR.PROCESS v` (R168). -/
def execArProcess (v : Voice) (s : State) : Result :=
  .next ((s.setAr v (arStep params s.ar[v])).pushReal params (arRender params s.ar[v]).2)

/-- `AR.GET_AMP v, i` (R169): the normalised weight without jitter. -/
def execArGetAmp (v : Voice) (i : OscIdx) (s : State) : Result :=
  .next (s.pushReal params (F.mul s.ar[v].amp[i] s.ar[v].norm))

end Sys2Proof.Machine
end

