-- ==== Sys2Proof/Machine/Biquad.lean ====
section
/-!
DEFINITION. The multi-mode biquad filter (44_biquad_filter.md): the coefficients of the four modes, the
general transposed update, and the five FB commands.
-/

namespace Sys2Proof.Machine

open Sys2Proof Config

/-- The effective cutoff: the stored one, limited to `K_AR_HI * SYS.FS` (R253). -/
def fbCutoff (fs : F) (b : FbState) : F :=
  if F.gt b.cutoff (F.mul kArHi fs) then F.mul kArHi fs else b.cutoff

/-- `Q = 0.5 + (res * res) * 14.5` (R252). -/
def fbQ (res : F) : F := F.add fbQMin (F.mul (F.mul res res) fbQSpan)

/-- `w = (TWO_PI * fc) / SYS.FS` (R254). -/
def fbOmega (fs : F) (b : FbState) : F := F.div (F.mul twoPi (fbCutoff fs b)) fs

/-- `alpha = s / (2.0 * Q)` (R254). -/
def fbAlpha (P : Params) (fs : F) (b : FbState) : F :=
  F.div (fsin P (fbOmega fs b)) (F.mul (F.lit 2 1) (fbQ b.res))

/-- The numerators `n0, n1, n2` of each mode, from `c = cos w` and `alpha` (R254). -/
def fbNumerators (m : FilterMode) (c alpha : F) : F × F × F :=
  match m with
  | .lowPass => (F.div (F.sub F.one c) (F.lit 2 1), F.sub F.one c, F.div (F.sub F.one c) (F.lit 2 1))
  | .highPass =>
    (F.div (F.add F.one c) (F.lit 2 1), F.neg (F.add F.one c), F.div (F.add F.one c) (F.lit 2 1))
  | .bandPass => (alpha, F.zero, F.neg alpha)
  | .notch => (F.one, F.mul (F.neg (F.lit 2 1)) c, F.one)

/-- The five coefficients from the numerators, `cos w` and `alpha`, and the flag cleared (R254). R21 lets
`fsin` be negative, so the divisor `a0` need not be above 1 and may be 0: the model's choice against R381 and
R263 (assumption 25). -/
def fbCoefficients (b : FbState) (num : F × F × F) (c alpha : F) : FbState :=
  { b with
    b0 := F.div num.1 (F.add F.one alpha)
    b1 := F.div num.2.1 (F.add F.one alpha)
    b2 := F.div num.2.2 (F.add F.one alpha)
    a1 := F.div (F.mul (F.neg (F.lit 2 1)) c) (F.add F.one alpha)
    a2 := F.div (F.sub F.one alpha) (F.add F.one alpha)
    dirty := false }

/-- `fb_recompute(v)` (R254). -/
def fbRecompute (P : Params) (fs : F) (b : FbState) : FbState :=
  fbCoefficients b (fbNumerators b.mode (fcos P (fbOmega fs b)) (fbAlpha P fs b))
    (fcos P (fbOmega fs b)) (fbAlpha P fs b)

/-- The lazy recomputation: when the flag is set, and not otherwise (R260). -/
def fbFresh (P : Params) (fs : F) (b : FbState) : FbState := if b.dirty then fbRecompute P fs b else b

/-- `out = b0 * x + z1` (R259). -/
def fbOut (b : FbState) (x : F) : F := F.add (F.mul b.b0 x) b.z1

/-- The memories after one sample (R259). -/
def fbAdvance (b : FbState) (x : F) : FbState :=
  { b with
    z1 := F.sub (F.add (F.mul b.b1 x) b.z2) (F.mul b.a1 (fbOut b x))
    z2 := F.sub (F.mul b.b2 x) (F.mul b.a2 (fbOut b x)) }

/-- Clear the memories (R255). -/
def FbState.clear (b : FbState) : FbState := { b with z1 := F.zero, z2 := F.zero }

/-! ## Commands -/

/-- `FB.RESET v` (R255). -/
def execFbReset (v : Voice) (s : State) : Result := .next (s.setFb v s.fb[v].clear)

/-- `FB.SET_CUTOFF v, f` (R256). -/
def execFbSetCutoff (v : Voice) (f : Word) (s : State) : Result :=
  .next (s.setFb v (FbState.markDirty { s.fb[v] with cutoff := control s.settings .fbCutoff f }))

/-- `FB.SET_RES v, r` (R257). -/
def execFbSetRes (v : Voice) (r : Word) (s : State) : Result :=
  .next (s.setFb v (FbState.markDirty { s.fb[v] with res := control s.settings .fbRes r }))

/-- `FB.SET_MODE v, m` (R258). -/
def execFbSetMode (v : Voice) (mode : BitVec 16) (s : State) : Result :=
  .next (s.setFb v (FbState.markDirty { s.fb[v] with mode := filterModeOf mode }))

/-- `FB.PROCESS v, x` (R261): the input is a signal (R384). -/
def execFbProcess (v : Voice) (x : Word) (s : State) : Result :=
  .next ((s.setFb v (fbAdvance (fbFresh params s.sys.fs s.fb[v]) (signal x))).pushReal params
    (fbOut (fbFresh params s.sys.fs s.fb[v]) (signal x)))

end Sys2Proof.Machine
end

