-- ==== Sys2Proof/Machine/Effects.lean ====
section
/-!
DEFINITION. The global effects chain (46_effects_and_system.md R300 to R319): the five stages in their
fixed order, the latch and modulation of the parameters, and the six FX commands.
-/

namespace Sys2Proof.Machine

open Sys2Proof Config

/-! ## The stages (R305 to R310) -/

/-- `D = floor(time * SYS.FS + 0.5)` as an integer, limited to `1 .. DLY_LEN - 1` (R308, R382 e). -/
def delayLength (T : Settings) (fs time : F) : Nat :=
  max 1 (min (F.floorNat (T.dlyLen - 1) (F.add (F.mul time fs) (F.lit 1 2))) (T.dlyLen - 1))

/-- The delay's output `s3 = s2 + fb * tap`; the read comes before the write (R308). -/
def delayOut (T : Settings) (fs : F) (x : FxState) (s2 time fb : F) : F :=
  F.add s2 (F.mul fb (x.dly.get (tapIndex T.dlyLen x.dlyW (delayLength T fs time))))

/-- The delay line after one sample (R308). -/
def delayStep (T : Settings) (x : FxState) (s3 : F) : FxState :=
  { x with dly := x.dly.set x.dlyW s3, dlyW := (x.dlyW + 1) % T.dlyLen }

/-- The master gain after one sample: `g + SMOOTH_K * (cur[0] - g)` (R310). -/
def smoothedGain (T : Settings) (x : FxState) : F := F.add x.g (F.mul T.smoothK (F.sub x.cur[0] x.g))

/-- Stage 1, saturation (R305, R306). -/
def fxSat (P : Params) (x : FxState) (input : F) : F := satFn P input x.cur[1]

/-- Stage 2, chorus (R305, R307). -/
def fxChorus (P : Params) (x : FxState) (s1 : F) : FxState × F :=
  ({ x with ch := (chorusKernel P x.ch s1 x.cur[4]).1 }, (chorusKernel P x.ch s1 x.cur[4]).2)

/-- Stage 3, delay (R305, R308). -/
def fxDelay (T : Settings) (fs : F) (x : FxState) (s2 : F) : FxState × F :=
  (delayStep T x (delayOut T fs x s2 x.cur[2] x.cur[3]), delayOut T fs x s2 x.cur[2] x.cur[3])

/-- Stage 4, reverb (R305, R309). -/
def fxReverb (P : Params) (x : FxState) (s3 : F) : FxState × F :=
  ({ x with rv := (reverbKernel P x.rv s3 x.cur[5]).1 }, (reverbKernel P x.rv s3 x.cur[5]).2)

/-- Stage 5, the smoothed master gain (R305, R310). -/
def fxGain (T : Settings) (x : FxState) (s4 : F) : FxState × F :=
  ({ x with g := smoothedGain T x }, F.mul s4 (smoothedGain T x))

/-- FX.PROCESS: saturation, chorus, delay, reverb, master gain, in that order and none skipped
(R305, R316). -/
def fxProcess (P : Params) (T : Settings) (fs : F) (x : FxState) (input : F) : FxState × F :=
  let (x2, s2) := fxChorus P x (fxSat P x input)
  let (x3, s3) := fxDelay T fs x2 s2
  let (x4, s4) := fxReverb P x3 s3
  fxGain T x4 s4

/-- Clear the delay line and its index and put both kernels in their reset state; the gain takes the latched
level (R312). -/
def FxState.clear (x : FxState) : FxState :=
  { x with g := x.cur[0], dly := Line.cleared, dlyW := 0, ch := kernelReset, rv := kernelReset }

/-- The latched value of parameter `p` after `delta` is added: unchanged for a non-finite `delta` or sum,
limited to the parameter's range otherwise (R315). -/
def fxModulated (T : Settings) (p : Fin nfx) (cur delta : F) : F :=
  if delta.isFinite then
    clampv (F.add cur delta) ⟨(T.range (fxControl p)).lo, (T.range (fxControl p)).hi, cur⟩
  else cur

/-! ## Commands -/

/-- `FX.RESET` (R312). -/
def execFxReset (s : State) : Result := .next (s.setFx s.fx.clear)

/-- `FX.SET p, x` (R313): `FX.cur` is not touched. -/
def execFxSet (p : FxIdx) (x : Word) (s : State) : Result :=
  .next (s.setFx { s.fx with pend := s.fx.pend.set p (fxOperand s.settings p x) })

/-- `FX.LATCH` (R314): all six copies in one step. -/
def execFxLatch (s : State) : Result := .next (s.setFx { s.fx with cur := s.fx.pend })

/-- `FX.MOD_ADD p, delta` (R315). -/
def execFxModAdd (p : FxIdx) (delta : Word) (s : State) : Result :=
  .next (s.setFx { s.fx with cur := s.fx.cur.set p (fxModulated s.settings p s.fx.cur[p] (F.asF delta)) })

/-- `FX.PROCESS x` (R316): the input is a signal (R384). -/
def execFxProcess (x : Word) (s : State) : Result :=
  .next ((s.setFx (fxProcess params s.settings s.sys.fs s.fx (signal x)).1).pushReal params
    (fxProcess params s.settings s.sys.fs s.fx (signal x)).2)

/-- `FX.GET_PARAM p` (R317). -/
def execFxGetParam (p : FxIdx) (s : State) : Result := .next (s.pushReal params s.fx.cur[p])

end Sys2Proof.Machine
end

