-- ==== Sys2Proof/Machine/Envelope.lean ====
section
/-!
DEFINITION. The exponential ADSR envelope (43_envelope.md): the multipliers, the stage step, and the ten
ENV commands.
-/

namespace Sys2Proof.Machine

open Sys2Proof Config

/-- `env_mult(t)`: `n = (t * MS) * SYS.FS`, then `fexp(-(1.0 / n))` (R222). -/
def envMult (P : Params) (fs t : F) : F := fexp P (F.neg (F.div F.one (F.mul (F.mul t ms) fs)))

/-- The lazy recomputation: all three multipliers, and the flag cleared, when it was set (R223). -/
def envRecompute (P : Params) (fs : F) (n : EnvState) : EnvState :=
  if n.dirty then
    { n with mA := envMult P fs n.attMs, mD := envMult P fs n.decMs, mR := envMult P fs n.relMs,
             dirty := false }
  else n

/-- One segment: `target + multiplier * (level - target)` (R220, R224). -/
def envSegment (target mult level : F) : F := F.add target (F.mul mult (F.sub level target))

/-- The Attack line of `env_step` (R224). -/
def envAttackStep (n : EnvState) : EnvState :=
  if F.ge (envSegment envAtkTarget n.mA n.level) envAtkDone then { n with level := F.one, st := .decay }
  else { n with level := envSegment envAtkTarget n.mA n.level }

/-- The Decay line of `env_step`, with both its exits (R224; 90_conflicts.md C7). -/
def envDecayStep (n : EnvState) : EnvState :=
  if F.le (F.sub (envSegment n.sus n.mD n.level) n.sus) envEps
      || F.feq (envSegment n.sus n.mD n.level) n.level then
    { n with level := n.sus, st := .sustain }
  else { n with level := envSegment n.sus n.mD n.level }

/-- The Release line of `env_step` (R224; 90_conflicts.md C1). -/
def envReleaseStep (n : EnvState) : EnvState :=
  if F.lt (envSegment envRelTarget n.mR n.level) envEps then { n with level := F.zero, st := .idle }
  else { n with level := envSegment envRelTarget n.mR n.level }

/-- `env_step(E)` (R224). -/
def envStep (n : EnvState) : EnvState :=
  match n.st with
  | .idle => { n with level := F.zero }
  | .attack => envAttackStep n
  | .decay => envDecayStep n
  | .sustain => { n with level := n.sus }
  | .release => envReleaseStep n

/-- The envelope after ENV.PROCESS: recompute if dirty, then step (R232). -/
def envProcess (P : Params) (fs : F) (n : EnvState) : EnvState := envStep (envRecompute P fs n)

/-- Idle at level 0 (R225). -/
def EnvState.clear (n : EnvState) : EnvState := { n with st := .idle, level := F.zero }

/-! ## Commands -/

/-- `ENV.RESET v.e<e>` (R225). -/
def execEnvReset (v : Voice) (e : EnvSel) (s : State) : Result := .next (s.setEnv v e s.env[v][e].clear)

/-- `ENV.SET_ATTACK v.e<e>, t` (R226). -/
def execEnvSetAttack (v : Voice) (e : EnvSel) (t : Word) (s : State) : Result :=
  .next (s.setEnv v e (EnvState.markDirty { s.env[v][e] with attMs := control s.settings .envAttack t }))

/-- `ENV.SET_DECAY v.e<e>, t` (R227). -/
def execEnvSetDecay (v : Voice) (e : EnvSel) (t : Word) (s : State) : Result :=
  .next (s.setEnv v e (EnvState.markDirty { s.env[v][e] with decMs := control s.settings .envDecay t }))

/-- `ENV.SET_SUSTAIN v.e<e>, s` (R228). -/
def execEnvSetSustain (v : Voice) (e : EnvSel) (level : Word) (s : State) : Result :=
  .next (s.setEnv v e (EnvState.markDirty { s.env[v][e] with sus := control s.settings .envSustain level }))

/-- `ENV.SET_RELEASE v.e<e>, t` (R229). -/
def execEnvSetRelease (v : Voice) (e : EnvSel) (t : Word) (s : State) : Result :=
  .next (s.setEnv v e (EnvState.markDirty { s.env[v][e] with relMs := control s.settings .envRelease t }))

/-- `ENV.NOTE_ON v.e<e>` (R230): the level is kept. -/
def execEnvNoteOn (v : Voice) (e : EnvSel) (s : State) : Result :=
  .next (s.setEnv v e { s.env[v][e] with st := .attack })

/-- `ENV.NOTE_OFF v.e<e>` (R231): nothing in Idle, Release otherwise. -/
def execEnvNoteOff (v : Voice) (e : EnvSel) (s : State) : Result :=
  .next (if s.env[v][e].st = .idle then s else s.setEnv v e { s.env[v][e] with st := .release })

/-- `ENV.PROCESS v.e<e>` (R232): the result is the level after the step. -/
def execEnvProcess (v : Voice) (e : EnvSel) (s : State) : Result :=
  .next ((s.setEnv v e (envProcess params s.sys.fs s.env[v][e])).pushReal params
    (envProcess params s.sys.fs s.env[v][e]).level)

/-- `ENV.GET_LEVEL v.e<e>` (R238). -/
def execEnvGetLevel (v : Voice) (e : EnvSel) (s : State) : Result :=
  .next (s.pushReal params s.env[v][e].level)

/-- `ENV.GET_STATE v.e<e>` (R239). -/
def execEnvGetState (v : Voice) (e : EnvSel) (s : State) : Result :=
  .next (s.pushWord (stageCode s.env[v][e].st))

end Sys2Proof.Machine
end

