-- ==== Sys2Proof/Machine/Lfo.lean ====
section
/-!
DEFINITION. The multi-waveform LFO (45_lfo.md): rate, waveforms, Sample-and-Hold, the block fast path,
and the eleven LFO commands.
-/

namespace Sys2Proof.Machine

open Sys2Proof Config

/-- The rate in Hz: free-running, or `(BPM / 60) * division` (R272). -/
def lfoRate (l : LfoState) : F := if l.sync then F.mul (F.div l.bpm (F.lit 60 1)) l.div else l.rate

/-- `lfo_recompute(L)` (R272). -/
def lfoRecompute (fs : F) (l : LfoState) : LfoState :=
  { l with inc := F.div (lfoRate l) fs, dirty := false }

/-- The lazy recomputation, when the flag is set (R272). -/
def lfoFresh (fs : F) (l : LfoState) : LfoState := if l.dirty then lfoRecompute fs l else l

/-- `u = x * (1.0 - x)` (R274). -/
def bhaskaraArg (x : F) : F := F.mul x (F.sub F.one x)

/-- `bhaskara(x) = (16.0 * u) / (5.0 - 4.0 * u)` (R274; 90_conflicts.md C4). -/
def bhaskara (x : F) : F :=
  F.div (F.mul (F.lit 16 1) (bhaskaraArg x)) (F.sub (F.lit 5 1) (F.mul (F.lit 4 1) (bhaskaraArg x)))

/-- `lfo_shape(L)`: the waveform value at the current phase, before depth (R273). -/
def lfoShape (l : LfoState) : F :=
  match l.wave with
  | .sine =>
    if F.lt l.phase (F.lit 1 2) then bhaskara (F.mul (F.lit 2 1) l.phase)
    else F.neg (bhaskara (F.sub (F.mul (F.lit 2 1) l.phase) F.one))
  | .triangle =>
    if F.lt l.phase (F.lit 1 4) then F.mul (F.lit 4 1) l.phase
    else if F.lt l.phase (F.lit 3 4) then F.sub (F.lit 2 1) (F.mul (F.lit 4 1) l.phase)
    else F.sub (F.mul (F.lit 4 1) l.phase) (F.lit 4 1)
  | .sawUp => F.sub (F.mul (F.lit 2 1) l.phase) F.one
  | .sawDown => F.sub F.one (F.mul (F.lit 2 1) l.phase)
  | .square => if F.lt l.phase (F.lit 1 2) then F.one else F.neg F.one
  | .sampleHold => F.add l.shPrev (F.mul (F.sub l.shNext l.shPrev) l.phase)

/-- The Sample-and-Hold registers at a phase wrap: the target becomes the held value and a new target is
drawn; in any other waveform nothing is drawn (R283, R286). -/
def lfoWrap (P : Params) (l : LfoState) : LfoState :=
  if l.wave = .sampleHold then
    { l with shPrev := l.shNext, shNext := (draw P l.rng).2, rng := (draw P l.rng).1 }
  else l

/-- `lfo_advance1(L)` (R283). -/
def lfoAdvance1 (P : Params) (l : LfoState) : LfoState :=
  if F.ge (F.add l.phase l.inc) F.one then
    { lfoWrap P l with phase := F.wrap01 (F.add l.phase l.inc) }
  else { l with phase := F.add l.phase l.inc }

/-- One output sample: `lfo_shape(L) * L.depth` (R284). -/
def lfoSample (l : LfoState) : F := F.mul (lfoShape l) l.depth

/-- One output sample stored in `last`, then one advance (R284, R288), on an LFO already recomputed. -/
def lfoStep (P : Params) (l : LfoState) : LfoState := lfoAdvance1 P { l with last := lfoSample l }

/-- Advance for the remaining `m` samples of a block without a waveform value: sample by sample in
Sample-and-Hold, in one multiplication otherwise (R285). -/
def lfoSkip (P : Params) (m : Nat) (l : LfoState) : LfoState :=
  if l.wave = .sampleHold then (lfoAdvance1 P)^[m] l
  else { l with phase := F.wrap01 (F.add l.phase (F.mul (F.ofNat m) l.inc)) }

/-- `LFO.PROCESS` on one LFO (R288). -/
def lfoProcess (P : Params) (fs : F) (l : LfoState) : LfoState := lfoStep P (lfoFresh fs l)

/-- `LFO.PROCESS_BLOCK` on one LFO: nothing for a count of 0 (R285, R289). -/
def lfoProcessBlock (P : Params) (fs : F) (count : Nat) (l : LfoState) : LfoState :=
  if count = 0 then l else lfoSkip P (count - 1) (lfoStep P (lfoFresh fs l))

/-- Clear the signal state; the generator is kept (R275). -/
def LfoState.clear (l : LfoState) : LfoState :=
  { l with phase := F.zero, shPrev := F.zero, shNext := F.zero, last := F.zero }

/-! ## Commands -/

/-- `LFO.RESET l<j>` (R275). -/
def execLfoReset (j : LfoSel) (s : State) : Result := .next (s.setLfo j s.lfo[j].clear)

/-- `LFO.SET_RATE l<j>, r` (R276). -/
def execLfoSetRate (j : LfoSel) (r : Word) (s : State) : Result :=
  .next (s.setLfo j (LfoState.markDirty { s.lfo[j] with rate := control s.settings .lfoRate r }))

/-- `LFO.SET_DEPTH l<j>, d` (R277): the dirty flag is not set (R50). -/
def execLfoSetDepth (j : LfoSel) (d : Word) (s : State) : Result :=
  .next (s.setLfo j { s.lfo[j] with depth := control s.settings .lfoDepth d })

/-- `LFO.SET_WAVE l<j>, w` (R278): the phase and the dirty flag are kept. -/
def execLfoSetWave (j : LfoSel) (wave : BitVec 16) (s : State) : Result :=
  .next (s.setLfo j { s.lfo[j] with wave := waveOf wave })

/-- `LFO.SET_SYNC l<j>, m` (R279). -/
def execLfoSetSync (j : LfoSel) (sync : BitVec 16) (s : State) : Result :=
  .next (s.setLfo j (LfoState.markDirty { s.lfo[j] with sync := syncOf sync }))

/-- `LFO.SET_BPM l<j>, b` (R280). -/
def execLfoSetBpm (j : LfoSel) (b : Word) (s : State) : Result :=
  .next (s.setLfo j (LfoState.markDirty { s.lfo[j] with bpm := control s.settings .lfoBpm b }))

/-- `LFO.SET_DIV l<j>, d` (R281). -/
def execLfoSetDiv (j : LfoSel) (d : Word) (s : State) : Result :=
  .next (s.setLfo j (LfoState.markDirty { s.lfo[j] with div := control s.settings .lfoDiv d }))

/-- `LFO.SEED l<j>, s` (R282): the operand is a raw word. -/
def execLfoSeed (j : LfoSel) (seed : Word) (s : State) : Result :=
  .next (s.setLfo j { s.lfo[j] with rng := seed })

/-- `LFO.PROCESS l<j>` (R288). -/
def execLfoProcess (j : LfoSel) (s : State) : Result :=
  .next ((s.setLfo j (lfoProcess params s.sys.fs s.lfo[j])).pushReal params
    (lfoSample (lfoFresh s.sys.fs s.lfo[j])))

/-- `LFO.GET_VALUE l<j>` (R290). -/
def execLfoGetValue (j : LfoSel) (s : State) : Result := .next (s.pushReal params s.lfo[j].last)

/-- `LFO.PROCESS_BLOCK l<j>, N` (R289): the result is the value at the first sample of the block, or the
last value for `N = 0`. -/
def execLfoProcessBlock (j : LfoSel) (count : BitVec 16) (s : State) : Result :=
  .next ((s.setLfo j (lfoProcessBlock params s.sys.fs count.toNat s.lfo[j])).pushReal params
    (if count.toNat = 0 then s.lfo[j].last else lfoSample (lfoFresh s.sys.fs s.lfo[j])))

end Sys2Proof.Machine
end

