-- ==== Sys2Proof/Machine/ResonatorBank.lean ====
section
/-!
DEFINITION. The resonator filter bank (42_resonator_filter_bank.md): how RFB.UPDATE tunes 128 band-pass
filters, the dirty check, how RFB.PROCESS advances them in four lanes, and the six RFB commands.
-/

namespace Sys2Proof.Machine

open Sys2Proof Config

/-! ## RFB.UPDATE (R192 to R196, R203) -/

/-- `Q = 1.0 + (res * res) * 199.0` (R192). -/
def rfbQ (res : F) : F := F.add rfbQBase (F.mul (F.mul res res) rfbQSpan)

/-- Is a filter at frequency `fr` zeroed? Strict comparisons on both sides (R194). They are IEEE's (R18), so an
infinite `fr` is outside and a NaN is not: the model's choice against R194's sentence on a non-finite `fr`
(assumption 26). -/
def rfbOutside (fs fr : F) : Bool := F.lt fr kRfbLo || F.gt fr (F.mul kRfbHi fs)

/-- `w = (TWO_PI * fr) / SYS.FS` (R193). -/
def rfbOmega (fs fr : F) : F := F.div (F.mul twoPi fr) fs

/-- `alpha = fsin(w) / (2.0 * Q)` (R193). -/
def rfbAlpha (P : Params) (fs fr res : F) : F :=
  F.div (fsin P (rfbOmega fs fr)) (F.mul (F.lit 2 1) (rfbQ res))

/-- The five derived registers from `alpha`, `cos w` and the gain; the memories are kept (R193). R21 lets `fsin`
be negative, so the divisor need not be above 1: the model's choice against R381 (assumption 25). -/
def rfbCoefficients (f : FiltState) (alpha c amp : F) : FiltState :=
  { f with
    b0 := F.div alpha (F.add F.one alpha)
    b2 := F.div (F.neg alpha) (F.add F.one alpha)
    a1 := F.div (F.mul (F.neg (F.lit 2 1)) c) (F.add F.one alpha)
    a2 := F.div (F.sub F.one alpha) (F.add F.one alpha)
    amp := amp }

/-- A zeroed filter: coefficients and amplitude zero, the memories kept (R193, R194). -/
def rfbZeroed (f : FiltState) : FiltState :=
  { f with b0 := F.zero, b2 := F.zero, a1 := F.zero, a2 := F.zero, amp := F.zero }

/-- `rfb_set_filter(v, i, fr, a, res)` on the filter itself (R193). -/
def rfbSetFilter (P : Params) (fs : F) (f : FiltState) (fr amp res : F) : FiltState :=
  if rfbOutside fs fr then rfbZeroed f
  else rfbCoefficients f (rfbAlpha P fs fr res) (fcos P (rfbOmega fs fr)) amp

/-- The frequency of partial `k`: `base * (k + 1) + off`, no stretch (R203). -/
def rfbFreq (b : RfbState) (k : Fin np) (mx my : F) : F :=
  F.add (F.mul b.base (F.ofNat (k.val + 1))) (morph b.model (·.off) k mx my)

/-- Filter `i` retuned: primaries at the partial's frequency, twins at `fr * (1 + det)` with gain
`K_UNI * a`, or zeroed when `det == 0.0` (R195, R203). -/
def rfbTuned (P : Params) (fs : F) (b : RfbState) (mx my res det : F) (i : Fin nosc) : FiltState :=
  if isPrimary i then
    rfbSetFilter P fs b.filt[i] (rfbFreq b (partialOf i) mx my)
      (morph b.model (·.amp) (partialOf i) mx my) res
  else if F.fne det F.zero then
    rfbSetFilter P fs b.filt[i] (F.mul (rfbFreq b (partialOf i) mx my) (F.add F.one det))
      (F.mul kUni (morph b.model (·.amp) (partialOf i) mx my)) res
  else rfbSetFilter P fs b.filt[i] F.zero F.zero res

/-- The recomputation of RFB.UPDATE (R203). -/
def rfbRecompute (P : Params) (fs : F) (b : RfbState) (mx my res det : F) : RfbState :=
  { b with
    filt := Vector.ofFn (rfbTuned P fs b mx my res det)
    lastMx := mx
    lastMy := my
    lastRes := res
    lastDet := det
    dirty := false }

/-- Does RFB.UPDATE return early: not dirty, and every validated operand equal to its cached value
(R196, R203)? The comparison is by value, so an operand of `-0.0` meets a cached `+0.0`: the model's choice against
R204 where a recomputation would write a zero of the other sign (assumption 27). -/
def rfbClean (b : RfbState) (mx my res det : F) : Bool :=
  !b.dirty && F.feq mx b.lastMx && F.feq my b.lastMy && F.feq res b.lastRes && F.feq det b.lastDet

/-- The effect of RFB.UPDATE on one bank, from validated operands (R203). -/
def rfbUpdate (P : Params) (fs : F) (b : RfbState) (mx my res det : F) : RfbState :=
  if rfbClean b mx my res det then b else rfbRecompute P fs b mx my res det

/-! ## RFB.PROCESS (R197, R198, R206) -/

/-- `out = b0 * x + z1` (R197). -/
def filtOut (f : FiltState) (x : F) : F := F.add (F.mul f.b0 x) f.z1

/-- The memories after one sample; the new `z1` uses the old `z2` (R197). -/
def filtAdvance (f : FiltState) (x : F) : FiltState :=
  { f with
    z1 := F.sub f.z2 (F.mul f.a1 (filtOut f x))
    z2 := F.sub (F.mul f.b2 x) (F.mul f.a2 (filtOut f x)) }

/-- Filter `4g + l`: lane `l` of group `g` (R42). -/
def laneIndex (g : Fin (nosc / lanes)) (l : Fin lanes) : Fin nosc :=
  ⟨4 * g.val + l.val, by have := g.isLt; have := l.isLt; simp only [nosc, lanes] at *; omega⟩

/-- The accumulator of one lane, over the groups in order (R198). -/
def laneSum (b : RfbState) (x : F) (l : Fin lanes) : F :=
  (List.finRange (nosc / lanes)).foldl
    (fun acc g => F.add acc (F.mul b.filt[laneIndex g l].amp (filtOut b.filt[laneIndex g l] x))) F.zero

/-- The result `(accv[0] + accv[1]) + (accv[2] + accv[3])` (R198, R206). -/
def rfbOut (b : RfbState) (x : F) : F :=
  F.add (F.add (laneSum b x 0) (laneSum b x 1)) (F.add (laneSum b x 2) (laneSum b x 3))

/-- The bank after one sample: all 128 filters advance (R206). -/
def rfbStep (b : RfbState) (x : F) : RfbState :=
  { b with filt := Vector.ofFn fun i => filtAdvance b.filt[i] x }

/-! ## Commands -/

/-- Clear one filter's memories (R200). -/
def FiltState.clear (f : FiltState) : FiltState := { f with z1 := F.zero, z2 := F.zero }

/-- Clear every filter's memories (R200). -/
def RfbState.clear (b : RfbState) : RfbState := { b with filt := Vector.ofFn fun i => b.filt[i].clear }

/-- `RFB.RESET v` (R200). -/
def execRfbReset (v : Voice) (s : State) : Result := .next (s.setRfb v s.rfb[v].clear)

/-- `RFB.LOAD_MODEL v, s, …` (R201). A term without 128 operands is no command (R100). -/
def execRfbLoadModel (v : Voice) (slot : SlotIdx) (ops : List Word) (s : State) : Result :=
  if ops.length = 128 then
    .next (s.setRfb v (RfbState.markDirty { s.rfb[v] with model := s.rfb[v].model.set slot (loadedModel s.settings ops) }))
  else .refused .operandCount

/-- `RFB.SET_BASE v, f` (R202): the flag is set even when the value does not change. -/
def execRfbSetBase (v : Voice) (f : Word) (s : State) : Result :=
  .next (s.setRfb v (RfbState.markDirty { s.rfb[v] with base := control s.settings .rfbBase f }))

/-- `RFB.UPDATE v, mx, my, res, det` (R203). -/
def execRfbUpdate (v : Voice) (mx my res det : Word) (s : State) : Result :=
  .next (s.setRfb v (rfbUpdate params s.sys.fs s.rfb[v] (control s.settings .morph mx) (control s.settings .morph my)
    (control s.settings .resonance res) (control s.settings .rfbDetune det)))

/-- `RFB.PROCESS v, x` (R206): the excitation is a signal (R205). -/
def execRfbProcess (v : Voice) (x : Word) (s : State) : Result :=
  .next ((s.setRfb v (rfbStep s.rfb[v] (signal x))).pushReal params (rfbOut s.rfb[v] (signal x)))

/-- `RFB.GET_AMP v, i` (R207). -/
def execRfbGetAmp (v : Voice) (i : OscIdx) (s : State) : Result :=
  .next (s.pushReal params s.rfb[v].filt[i].amp)

end Sys2Proof.Machine
end

