-- ==== Sys2Proof/Machine/System.lean ====
section
/-!
DEFINITION. The system commands (46_effects_and_system.md R330 to R332): SYS.RESET and SYS.PREPARE, the
only commands that write more than one instance (10_state.md R55).
-/

namespace Sys2Proof.Machine

open Sys2Proof Config

/-- Every unit RESET at once (R330): AR, RFB, both ENV and FB of every slot, both LFOs, FX. Parameters,
models, derived registers, flags, generators, the sample rate and the result queues are kept. -/
def State.clearSignals (s : State) : State :=
  { s with
    ar := Vector.ofFn fun v => s.ar[v].clearPhases
    rfb := Vector.ofFn fun v => s.rfb[v].clear
    env := Vector.ofFn fun v => Vector.ofFn fun e => s.env[v][e].clear
    fb := Vector.ofFn fun v => s.fb[v].clear
    lfo := Vector.ofFn fun j => s.lfo[j].clear
    fx := s.fx.clear }

/-- `SYS.RESET` (R330). -/
def execSysReset (s : State) : Result := .next s.clearSignals

/-- `SYS.PREPARE blk, fs` (R331): the sample rate and block size, the effect of SYS.RESET, every dirty
flag. -/
def execSysPrepare (blk : BitVec 16) (fs : Word) (s : State) : Result :=
  .next (State.markAllDirty
    (State.clearSignals { s with sys := { fs := control s.settings .sysFs fs, block := blk } }))

end Sys2Proof.Machine
end

