-- ==== Sys2Proof/Machine/Dispatch.lean ====
section
/-!
DEFINITION. One arm per constructor of Instr, each one direct call of the command's meaning.
-/

namespace Sys2Proof.Machine

open Sys2Proof

/-- The meaning of a command (30_encoding.md R103; 60_exceptions.md R380: every command that decodes runs
to completion). -/
def exec (i : Instr) (s : State) : Host.Outcome State Fault Refusal :=
  match i with
  | .sysReset => Sys2Proof.Machine.execSysReset s
  | .sysPrepare blk fs => Sys2Proof.Machine.execSysPrepare blk fs s
  | .arReset v => Sys2Proof.Machine.execArReset v s
  | .arLoadModel v slot ops => Sys2Proof.Machine.execArLoadModel v slot ops s
  | .arSetBase v f => Sys2Proof.Machine.execArSetBase v f s
  | .arSetStretch v x => Sys2Proof.Machine.execArSetStretch v x s
  | .arSetEntropy v x => Sys2Proof.Machine.execArSetEntropy v x s
  | .arSetDetune v x => Sys2Proof.Machine.execArSetDetune v x s
  | .arSeed v seed => Sys2Proof.Machine.execArSeed v seed s
  | .arUpdate v mx my => Sys2Proof.Machine.execArUpdate v mx my s
  | .arProcess v => Sys2Proof.Machine.execArProcess v s
  | .arGetAmp v osc => Sys2Proof.Machine.execArGetAmp v osc s
  | .poSetFreq v osc f => Sys2Proof.Machine.execPoSetFreq v osc f s
  | .poReset v osc => Sys2Proof.Machine.execPoReset v osc s
  | .poStep v osc pm => Sys2Proof.Machine.execPoStep v osc pm s
  | .rfbReset v => Sys2Proof.Machine.execRfbReset v s
  | .rfbLoadModel v slot ops => Sys2Proof.Machine.execRfbLoadModel v slot ops s
  | .rfbSetBase v f => Sys2Proof.Machine.execRfbSetBase v f s
  | .rfbUpdate v mx my res det => Sys2Proof.Machine.execRfbUpdate v mx my res det s
  | .rfbProcess v x => Sys2Proof.Machine.execRfbProcess v x s
  | .rfbGetAmp v osc => Sys2Proof.Machine.execRfbGetAmp v osc s
  | .envReset v e => Sys2Proof.Machine.execEnvReset v e s
  | .envSetAttack v e t => Sys2Proof.Machine.execEnvSetAttack v e t s
  | .envSetDecay v e t => Sys2Proof.Machine.execEnvSetDecay v e t s
  | .envSetSustain v e level => Sys2Proof.Machine.execEnvSetSustain v e level s
  | .envSetRelease v e t => Sys2Proof.Machine.execEnvSetRelease v e t s
  | .envNoteOn v e => Sys2Proof.Machine.execEnvNoteOn v e s
  | .envNoteOff v e => Sys2Proof.Machine.execEnvNoteOff v e s
  | .envProcess v e => Sys2Proof.Machine.execEnvProcess v e s
  | .envGetLevel v e => Sys2Proof.Machine.execEnvGetLevel v e s
  | .envGetState v e => Sys2Proof.Machine.execEnvGetState v e s
  | .fbReset v => Sys2Proof.Machine.execFbReset v s
  | .fbSetCutoff v f => Sys2Proof.Machine.execFbSetCutoff v f s
  | .fbSetRes v r => Sys2Proof.Machine.execFbSetRes v r s
  | .fbSetMode v mode => Sys2Proof.Machine.execFbSetMode v mode s
  | .fbProcess v x => Sys2Proof.Machine.execFbProcess v x s
  | .lfoReset j => Sys2Proof.Machine.execLfoReset j s
  | .lfoSetRate j r => Sys2Proof.Machine.execLfoSetRate j r s
  | .lfoSetDepth j d => Sys2Proof.Machine.execLfoSetDepth j d s
  | .lfoSetWave j wave => Sys2Proof.Machine.execLfoSetWave j wave s
  | .lfoSetSync j sync => Sys2Proof.Machine.execLfoSetSync j sync s
  | .lfoSetBpm j b => Sys2Proof.Machine.execLfoSetBpm j b s
  | .lfoSetDiv j d => Sys2Proof.Machine.execLfoSetDiv j d s
  | .lfoSeed j seed => Sys2Proof.Machine.execLfoSeed j seed s
  | .lfoProcess j => Sys2Proof.Machine.execLfoProcess j s
  | .lfoGetValue j => Sys2Proof.Machine.execLfoGetValue j s
  | .lfoProcessBlock j count => Sys2Proof.Machine.execLfoProcessBlock j count s
  | .fxReset => Sys2Proof.Machine.execFxReset s
  | .fxSet p x => Sys2Proof.Machine.execFxSet p x s
  | .fxLatch => Sys2Proof.Machine.execFxLatch s
  | .fxModAdd p delta => Sys2Proof.Machine.execFxModAdd p delta s
  | .fxProcess x => Sys2Proof.Machine.execFxProcess x s
  | .fxGetParam p => Sys2Proof.Machine.execFxGetParam p s

end Sys2Proof.Machine
end

