-- ==== Sys2Proof/WellFormed.lean ====
section
/-!
DEFINITION. When a term of Instr stands for a command of a machine with `nv` voice slots. Every other bound of
30_encoding.md R105, R106 and R114 on an index is carried by the index's type; what is left is R105's bound on
the voice slot and R100's operand count of format H128.
-/

namespace Sys2Proof

/-- Format H128 has exactly 128 operand words (R100, R107); every other field is bounded by its type. -/
def Instr.operandsOk : Instr → Bool
  | .arLoadModel _ _ ops => ops.length == 128
  | .rfbLoadModel _ _ ops => ops.length == 128
  | .sysReset | .sysPrepare .. | .arReset .. | .arSetBase .. | .arSetStretch .. | .arSetEntropy ..
  | .arSetDetune .. | .arSeed .. | .arUpdate .. | .arProcess .. | .arGetAmp .. | .poSetFreq ..
  | .poReset .. | .poStep .. | .rfbReset .. | .rfbSetBase .. | .rfbUpdate .. | .rfbProcess ..
  | .rfbGetAmp .. | .envReset .. | .envSetAttack .. | .envSetDecay .. | .envSetSustain ..
  | .envSetRelease .. | .envNoteOn .. | .envNoteOff .. | .envProcess .. | .envGetLevel ..
  | .envGetState .. | .fbReset .. | .fbSetCutoff .. | .fbSetRes .. | .fbSetMode .. | .fbProcess ..
  | .lfoReset .. | .lfoSetRate .. | .lfoSetDepth .. | .lfoSetWave .. | .lfoSetSync .. | .lfoSetBpm ..
  | .lfoSetDiv .. | .lfoSeed .. | .lfoProcess .. | .lfoGetValue .. | .lfoProcessBlock .. | .fxReset
  | .fxSet .. | .fxLatch | .fxModAdd .. | .fxProcess .. | .fxGetParam .. => true

/-- The voice slot a command is addressed to, if it is addressed to one (R105). -/
def voiceOf : Instr → Option Voice
  | .sysReset | .sysPrepare .. | .lfoReset .. | .lfoSetRate .. | .lfoSetDepth .. | .lfoSetWave ..
  | .lfoSetSync .. | .lfoSetBpm .. | .lfoSetDiv .. | .lfoSeed .. | .lfoProcess .. | .lfoGetValue ..
  | .lfoProcessBlock .. | .fxReset | .fxSet .. | .fxLatch | .fxModAdd .. | .fxProcess ..
  | .fxGetParam .. => none
  | .arReset v | .arLoadModel v _ _ | .arSetBase v _ | .arSetStretch v _ | .arSetEntropy v _
  | .arSetDetune v _ | .arSeed v _ | .arUpdate v _ _ | .arProcess v | .arGetAmp v _
  | .poSetFreq v _ _ | .poReset v _ | .poStep v _ _ | .rfbReset v | .rfbLoadModel v _ _
  | .rfbSetBase v _ | .rfbUpdate v _ _ _ _ | .rfbProcess v _ | .rfbGetAmp v _ | .envReset v _
  | .envSetAttack v _ _ | .envSetDecay v _ _ | .envSetSustain v _ _ | .envSetRelease v _ _
  | .envNoteOn v _ | .envNoteOff v _ | .envProcess v _ | .envGetLevel v _ | .envGetState v _
  | .fbReset v | .fbSetCutoff v _ | .fbSetRes v _ | .fbSetMode v _ | .fbProcess v _ => some v

/-- The voice slot a command names is below NV (R105, R114). -/
def Instr.slotOk (nv : Nat) (i : Instr) : Bool := (voiceOf i).all fun v => decide (v.val < nv)

/-- A command of a machine with `nv` voice slots: its slot exists, and its operand words are as many as its
format says. -/
def Instr.wellFormed (nv : Nat) (i : Instr) : Bool := i.operandsOk && i.slotOk nv

/-- The check as a decidable proposition. -/
abbrev Instr.WellFormed (nv : Nat) (i : Instr) : Prop := i.wellFormed nv = true

end Sys2Proof
end

