-- ==== Sys2Proof/Decode.lean ====
section
/-!
DEFINITION. Decoding and encoding of commands (30_encoding.md R100 to R114): the command map of R103 as
one table, the decoder over the words of a channel, total and refusing by name, and the encoder written
from the same table.
-/

namespace Sys2Proof

open Config

/-! ## The command map -/

/-- The 53 rows of R103, in the table's order. -/
inductive Op where
  | sysReset | sysPrepare | arReset | arLoadModel | arSetBase | arSetStretch
  | arSetEntropy | arSetDetune | arSeed | arUpdate | arProcess | arGetAmp
  | poSetFreq | poReset | poStep | rfbReset | rfbLoadModel | rfbSetBase
  | rfbUpdate | rfbProcess | rfbGetAmp | envReset | envSetAttack | envSetDecay
  | envSetSustain | envSetRelease | envNoteOn | envNoteOff | envProcess | envGetLevel
  | envGetState | fbReset | fbSetCutoff | fbSetRes | fbSetMode | fbProcess
  | lfoReset | lfoSetRate | lfoSetDepth | lfoSetWave | lfoSetSync | lfoSetBpm
  | lfoSetDiv | lfoSeed | lfoProcess | lfoGetValue | lfoProcessBlock | fxReset
  | fxSet | fxLatch | fxModAdd | fxProcess | fxGetParam
  deriving DecidableEq, Repr

/-- What the `inst` field of a command names (R105). -/
inductive InstKind where
  | zero
  | voice
  | lfo
  deriving DecidableEq, Repr

/-- What the `idx` field of a command holds (R106). -/
inductive IdxKind where
  | zero
  | any
  | slot
  | osc
  | envSel
  | param
  deriving DecidableEq, Repr

/-- One row of the command map: the unit and function codes as one byte, the number of operand words,
what `inst` and `idx` hold, whether the command returns a word, and whether port CTL admits it. -/
structure Row where
  code : Nat
  operands : Nat
  inst : InstKind
  idx : IdxKind
  returns : Bool
  ctl : Bool
  deriving DecidableEq, Repr

/-- The command map (R103, with R105, R106 for the fields and R388 for port CTL). -/
def row : Op → Row
  | .sysReset => ⟨0x01, 0, .zero, .zero, false, false⟩  -- SYS.RESET
  | .sysPrepare => ⟨0x02, 1, .zero, .any, false, false⟩  -- SYS.PREPARE
  | .arReset => ⟨0x10, 0, .voice, .zero, false, false⟩  -- AR.RESET
  | .arLoadModel => ⟨0x11, 128, .voice, .slot, false, false⟩  -- AR.LOAD_MODEL
  | .arSetBase => ⟨0x12, 1, .voice, .zero, false, false⟩  -- AR.SET_BASE
  | .arSetStretch => ⟨0x13, 1, .voice, .zero, false, false⟩  -- AR.SET_STRETCH
  | .arSetEntropy => ⟨0x14, 1, .voice, .zero, false, false⟩  -- AR.SET_ENTROPY
  | .arSetDetune => ⟨0x15, 1, .voice, .zero, false, false⟩  -- AR.SET_DETUNE
  | .arSeed => ⟨0x16, 1, .voice, .zero, false, false⟩  -- AR.SEED
  | .arUpdate => ⟨0x17, 2, .voice, .zero, false, false⟩  -- AR.UPDATE
  | .arProcess => ⟨0x18, 0, .voice, .zero, true, false⟩  -- AR.PROCESS
  | .arGetAmp => ⟨0x19, 0, .voice, .osc, true, true⟩  -- AR.GET_AMP
  | .poSetFreq => ⟨0x1A, 1, .voice, .osc, false, false⟩  -- PO.SET_FREQ
  | .poReset => ⟨0x1B, 0, .voice, .osc, false, false⟩  -- PO.RESET
  | .poStep => ⟨0x1C, 1, .voice, .osc, true, false⟩  -- PO.STEP
  | .rfbReset => ⟨0x20, 0, .voice, .zero, false, false⟩  -- RFB.RESET
  | .rfbLoadModel => ⟨0x21, 128, .voice, .slot, false, false⟩  -- RFB.LOAD_MODEL
  | .rfbSetBase => ⟨0x22, 1, .voice, .zero, false, false⟩  -- RFB.SET_BASE
  | .rfbUpdate => ⟨0x27, 4, .voice, .zero, false, false⟩  -- RFB.UPDATE
  | .rfbProcess => ⟨0x28, 1, .voice, .zero, true, false⟩  -- RFB.PROCESS
  | .rfbGetAmp => ⟨0x29, 0, .voice, .osc, true, true⟩  -- RFB.GET_AMP
  | .envReset => ⟨0x30, 0, .voice, .envSel, false, false⟩  -- ENV.RESET
  | .envSetAttack => ⟨0x31, 1, .voice, .envSel, false, true⟩  -- ENV.SET_ATTACK
  | .envSetDecay => ⟨0x32, 1, .voice, .envSel, false, true⟩  -- ENV.SET_DECAY
  | .envSetSustain => ⟨0x33, 1, .voice, .envSel, false, true⟩  -- ENV.SET_SUSTAIN
  | .envSetRelease => ⟨0x34, 1, .voice, .envSel, false, true⟩  -- ENV.SET_RELEASE
  | .envNoteOn => ⟨0x35, 0, .voice, .envSel, false, false⟩  -- ENV.NOTE_ON
  | .envNoteOff => ⟨0x36, 0, .voice, .envSel, false, false⟩  -- ENV.NOTE_OFF
  | .envProcess => ⟨0x38, 0, .voice, .envSel, true, false⟩  -- ENV.PROCESS
  | .envGetLevel => ⟨0x39, 0, .voice, .envSel, true, true⟩  -- ENV.GET_LEVEL
  | .envGetState => ⟨0x3A, 0, .voice, .envSel, true, true⟩  -- ENV.GET_STATE
  | .fbReset => ⟨0x40, 0, .voice, .zero, false, false⟩  -- FB.RESET
  | .fbSetCutoff => ⟨0x41, 1, .voice, .zero, false, true⟩  -- FB.SET_CUTOFF
  | .fbSetRes => ⟨0x42, 1, .voice, .zero, false, true⟩  -- FB.SET_RES
  | .fbSetMode => ⟨0x43, 0, .voice, .any, false, true⟩  -- FB.SET_MODE
  | .fbProcess => ⟨0x48, 1, .voice, .zero, true, false⟩  -- FB.PROCESS
  | .lfoReset => ⟨0x50, 0, .lfo, .zero, false, false⟩  -- LFO.RESET
  | .lfoSetRate => ⟨0x51, 1, .lfo, .zero, false, true⟩  -- LFO.SET_RATE
  | .lfoSetDepth => ⟨0x52, 1, .lfo, .zero, false, true⟩  -- LFO.SET_DEPTH
  | .lfoSetWave => ⟨0x53, 0, .lfo, .any, false, true⟩  -- LFO.SET_WAVE
  | .lfoSetSync => ⟨0x54, 0, .lfo, .any, false, true⟩  -- LFO.SET_SYNC
  | .lfoSetBpm => ⟨0x55, 1, .lfo, .zero, false, true⟩  -- LFO.SET_BPM
  | .lfoSetDiv => ⟨0x56, 1, .lfo, .zero, false, true⟩  -- LFO.SET_DIV
  | .lfoSeed => ⟨0x57, 1, .lfo, .zero, false, false⟩  -- LFO.SEED
  | .lfoProcess => ⟨0x58, 0, .lfo, .zero, true, false⟩  -- LFO.PROCESS
  | .lfoGetValue => ⟨0x59, 0, .lfo, .zero, true, true⟩  -- LFO.GET_VALUE
  | .lfoProcessBlock => ⟨0x5A, 0, .lfo, .any, true, false⟩  -- LFO.PROCESS_BLOCK
  | .fxReset => ⟨0x60, 0, .zero, .zero, false, false⟩  -- FX.RESET
  | .fxSet => ⟨0x61, 1, .zero, .param, false, true⟩  -- FX.SET
  | .fxLatch => ⟨0x62, 0, .zero, .zero, false, false⟩  -- FX.LATCH
  | .fxModAdd => ⟨0x63, 1, .zero, .param, false, false⟩  -- FX.MOD_ADD
  | .fxProcess => ⟨0x68, 1, .zero, .zero, true, false⟩  -- FX.PROCESS
  | .fxGetParam => ⟨0x69, 0, .zero, .param, true, true⟩  -- FX.GET_PARAM

/-- Every row. -/
def allOps : List Op :=
  [.sysReset, .sysPrepare, .arReset, .arLoadModel, .arSetBase, .arSetStretch,
   .arSetEntropy, .arSetDetune, .arSeed, .arUpdate, .arProcess, .arGetAmp,
   .poSetFreq, .poReset, .poStep, .rfbReset, .rfbLoadModel, .rfbSetBase,
   .rfbUpdate, .rfbProcess, .rfbGetAmp, .envReset, .envSetAttack, .envSetDecay,
   .envSetSustain, .envSetRelease, .envNoteOn, .envNoteOff, .envProcess, .envGetLevel,
   .envGetState, .fbReset, .fbSetCutoff, .fbSetRes, .fbSetMode, .fbProcess,
   .lfoReset, .lfoSetRate, .lfoSetDepth, .lfoSetWave, .lfoSetSync, .lfoSetBpm,
   .lfoSetDiv, .lfoSeed, .lfoProcess, .lfoGetValue, .lfoProcessBlock, .fxReset,
   .fxSet, .fxLatch, .fxModAdd, .fxProcess, .fxGetParam]

/-- The row with a given (unit, func) byte; none is a reserved header (R112). -/
def opOfCode (code : Nat) : Option Op := allOps.find? fun o => decide ((row o).code = code)

/-! ## The header word (R101) -/

/-- The `unit` and `func` fields, bits 31:24, as one byte. -/
def headerCode (h : Word) : Nat := (h.extractLsb' 24 8).toNat
/-- The `inst` field, bits 23:16, unsigned. -/
def headerInst (h : Word) : Nat := (h.extractLsb' 16 8).toNat
/-- The `idx` field, bits 15:0, unsigned. -/
def headerIdx (h : Word) : Nat := (h.extractLsb' 0 16).toNat

/-- The header word with these fields (R101). -/
def mkHeader (code inst idx : Nat) : Word :=
  (BitVec.ofNat 8 code ++ BitVec.ofNat 8 inst ++ BitVec.ofNat 16 idx : BitVec 32)

/-! ## Decoding -/

/-- Why a header has no meaning. -/
inductive DecodeError where
  /-- The (unit, func) pair is no row of R103 (R112, U1). -/
  | reservedHeader
  /-- A field, or part of one, that must be zero is not (R113, U2). -/
  | reservedField
  /-- Voice slot not below NV, or LFO number above 1 (R114, U3). -/
  | instanceOutOfRange
  /-- Effect parameter id above 5 (R114, U3). -/
  | paramOutOfRange
  /-- The port does not admit the command (R388, U4). -/
  | notAdmitted
  deriving DecidableEq, Repr

/-- What the words of a channel hold at their head. -/
inductive Decoded where
  /-- A whole command, and the words after it. -/
  | command (i : Instr) (rest : List Word)
  /-- No header, or a header with fewer operand words than it calls for (R85, U5). -/
  | incomplete
  /-- A header to which the spec gives no meaning on this port. -/
  | invalid (e : DecodeError)
  deriving DecidableEq, Repr

/-- Must-be-zero parts of `inst` and `idx` (R105, R106, R113). -/
def fieldsReserved (r : Row) (inst idx : Nat) : Bool :=
  (match r.inst with
    | .zero => decide (inst ≠ 0)
    | .voice | .lfo => false) ||
  (match r.idx with
    | .zero => decide (idx ≠ 0)
    | .any | .param => false
    | .slot => decide (nslot ≤ idx)
    | .osc => decide (nosc ≤ idx)
    | .envSel => decide (2 ≤ idx))

/-- The voice slot or LFO number names no instance of a machine with `nv` slots (R105, R114). -/
def instanceBad (nv : Nat) (r : Row) (inst : Nat) : Bool :=
  match r.inst with
  | .zero => false
  | .voice => decide (nv ≤ inst)
  | .lfo => decide (nlfo ≤ inst)

/-- The effect parameter id is above 5 (R106, R114). -/
def paramBad (r : Row) (idx : Nat) : Bool :=
  match r.idx with
  | .param => decide (nfx ≤ idx)
  | .zero | .any | .slot | .osc | .envSel => false

/-- Is the command admitted on this port (R388)? AUD admits every command. -/
def admitted (p : Port) (r : Row) : Bool :=
  match p with
  | .aud => true
  | .ctl => r.ctl

/-- What is wrong with a header of a known row, if anything (R112 to R114, R388); where several things
are, the first in this order is named (assumption 17). -/
def headerError (nv : Nat) (p : Port) (r : Row) (h : Word) : Option DecodeError :=
  if fieldsReserved r (headerInst h) (headerIdx h) then some .reservedField
  else if instanceBad nv r (headerInst h) then some .instanceOutOfRange
  else if paramBad r (headerIdx h) then some .paramOutOfRange
  else if admitted p r then none
  else some .notAdmitted

/-- A number as an index below `n`, if it is one. -/
def finOf (n k : Nat) : Option (Fin n) := if h : k < n then some ⟨k, h⟩ else none

/-- The command of a row, from its `inst` and `idx` fields and its operand words in order (R106, R107). -/
def build (o : Op) (inst idx : Nat) (ws : List Word) : Option Instr :=
  match o, ws with
  | .sysReset, [] => some .sysReset
  | .sysPrepare, [fs] => some (.sysPrepare (BitVec.ofNat 16 idx) fs)
  | .arReset, [] => (finOf nvMax inst).map fun v => .arReset v
  | .arLoadModel, ops => (finOf nvMax inst).bind fun v => (finOf nslot idx).map fun s => .arLoadModel v s ops
  | .arSetBase, [f] => (finOf nvMax inst).map fun v => .arSetBase v f
  | .arSetStretch, [x] => (finOf nvMax inst).map fun v => .arSetStretch v x
  | .arSetEntropy, [x] => (finOf nvMax inst).map fun v => .arSetEntropy v x
  | .arSetDetune, [x] => (finOf nvMax inst).map fun v => .arSetDetune v x
  | .arSeed, [seed] => (finOf nvMax inst).map fun v => .arSeed v seed
  | .arUpdate, [mx, my] => (finOf nvMax inst).map fun v => .arUpdate v mx my
  | .arProcess, [] => (finOf nvMax inst).map fun v => .arProcess v
  | .arGetAmp, [] => (finOf nvMax inst).bind fun v => (finOf nosc idx).map fun i => .arGetAmp v i
  | .poSetFreq, [f] => (finOf nvMax inst).bind fun v => (finOf nosc idx).map fun i => .poSetFreq v i f
  | .poReset, [] => (finOf nvMax inst).bind fun v => (finOf nosc idx).map fun i => .poReset v i
  | .poStep, [pm] => (finOf nvMax inst).bind fun v => (finOf nosc idx).map fun i => .poStep v i pm
  | .rfbReset, [] => (finOf nvMax inst).map fun v => .rfbReset v
  | .rfbLoadModel, ops => (finOf nvMax inst).bind fun v => (finOf nslot idx).map fun s => .rfbLoadModel v s ops
  | .rfbSetBase, [f] => (finOf nvMax inst).map fun v => .rfbSetBase v f
  | .rfbUpdate, [mx, my, res, det] => (finOf nvMax inst).map fun v => .rfbUpdate v mx my res det
  | .rfbProcess, [x] => (finOf nvMax inst).map fun v => .rfbProcess v x
  | .rfbGetAmp, [] => (finOf nvMax inst).bind fun v => (finOf nosc idx).map fun i => .rfbGetAmp v i
  | .envReset, [] => (finOf nvMax inst).bind fun v => (finOf 2 idx).map fun e => .envReset v e
  | .envSetAttack, [t] => (finOf nvMax inst).bind fun v => (finOf 2 idx).map fun e => .envSetAttack v e t
  | .envSetDecay, [t] => (finOf nvMax inst).bind fun v => (finOf 2 idx).map fun e => .envSetDecay v e t
  | .envSetSustain, [level] => (finOf nvMax inst).bind fun v => (finOf 2 idx).map fun e => .envSetSustain v e level
  | .envSetRelease, [t] => (finOf nvMax inst).bind fun v => (finOf 2 idx).map fun e => .envSetRelease v e t
  | .envNoteOn, [] => (finOf nvMax inst).bind fun v => (finOf 2 idx).map fun e => .envNoteOn v e
  | .envNoteOff, [] => (finOf nvMax inst).bind fun v => (finOf 2 idx).map fun e => .envNoteOff v e
  | .envProcess, [] => (finOf nvMax inst).bind fun v => (finOf 2 idx).map fun e => .envProcess v e
  | .envGetLevel, [] => (finOf nvMax inst).bind fun v => (finOf 2 idx).map fun e => .envGetLevel v e
  | .envGetState, [] => (finOf nvMax inst).bind fun v => (finOf 2 idx).map fun e => .envGetState v e
  | .fbReset, [] => (finOf nvMax inst).map fun v => .fbReset v
  | .fbSetCutoff, [f] => (finOf nvMax inst).map fun v => .fbSetCutoff v f
  | .fbSetRes, [r] => (finOf nvMax inst).map fun v => .fbSetRes v r
  | .fbSetMode, [] => (finOf nvMax inst).map fun v => .fbSetMode v (BitVec.ofNat 16 idx)
  | .fbProcess, [x] => (finOf nvMax inst).map fun v => .fbProcess v x
  | .lfoReset, [] => (finOf nlfo inst).map fun j => .lfoReset j
  | .lfoSetRate, [r] => (finOf nlfo inst).map fun j => .lfoSetRate j r
  | .lfoSetDepth, [d] => (finOf nlfo inst).map fun j => .lfoSetDepth j d
  | .lfoSetWave, [] => (finOf nlfo inst).map fun j => .lfoSetWave j (BitVec.ofNat 16 idx)
  | .lfoSetSync, [] => (finOf nlfo inst).map fun j => .lfoSetSync j (BitVec.ofNat 16 idx)
  | .lfoSetBpm, [b] => (finOf nlfo inst).map fun j => .lfoSetBpm j b
  | .lfoSetDiv, [d] => (finOf nlfo inst).map fun j => .lfoSetDiv j d
  | .lfoSeed, [seed] => (finOf nlfo inst).map fun j => .lfoSeed j seed
  | .lfoProcess, [] => (finOf nlfo inst).map fun j => .lfoProcess j
  | .lfoGetValue, [] => (finOf nlfo inst).map fun j => .lfoGetValue j
  | .lfoProcessBlock, [] => (finOf nlfo inst).map fun j => .lfoProcessBlock j (BitVec.ofNat 16 idx)
  | .fxReset, [] => some .fxReset
  | .fxSet, [x] => (finOf nfx idx).map fun p => .fxSet p x
  | .fxLatch, [] => some .fxLatch
  | .fxModAdd, [delta] => (finOf nfx idx).map fun p => .fxModAdd p delta
  | .fxProcess, [x] => some (.fxProcess x)
  | .fxGetParam, [] => (finOf nfx idx).map fun p => .fxGetParam p
  | _, _ => none

/-- Read one command from the words of a channel, on a machine with `nv` voice slots (R85, R102, R114): the header fixes the length, and a header
without meaning is refused by name whatever follows it. -/
def decode (nv : Nat) (p : Port) : List Word → Decoded
  | [] => .incomplete
  | h :: ws =>
    match opOfCode (headerCode h) with
    | none => .invalid .reservedHeader
    | some o =>
      match headerError nv p (row o) h with
      | some e => .invalid e
      | none =>
        if ws.length < (row o).operands then .incomplete
        else
          match build o (headerInst h) (headerIdx h) (ws.take (row o).operands) with
          | some i => .command i (ws.drop (row o).operands)
          | none => .invalid .reservedHeader

/-! ## Encoding -/

/-- The parts of a command: its row, its `inst` and `idx` fields, its operand words. -/
structure Parts where
  op : Op
  inst : Nat
  idx : Nat
  ops : List Word
  deriving DecidableEq, Repr

/-- Take a command apart (R101, R106, R107). -/
def parts : Instr → Parts
  | .sysReset => ⟨.sysReset, 0, 0, []⟩
  | .sysPrepare blk fs => ⟨.sysPrepare, 0, blk.toNat, [fs]⟩
  | .arReset v => ⟨.arReset, v.val, 0, []⟩
  | .arLoadModel v s ops => ⟨.arLoadModel, v.val, s.val, ops⟩
  | .arSetBase v f => ⟨.arSetBase, v.val, 0, [f]⟩
  | .arSetStretch v x => ⟨.arSetStretch, v.val, 0, [x]⟩
  | .arSetEntropy v x => ⟨.arSetEntropy, v.val, 0, [x]⟩
  | .arSetDetune v x => ⟨.arSetDetune, v.val, 0, [x]⟩
  | .arSeed v seed => ⟨.arSeed, v.val, 0, [seed]⟩
  | .arUpdate v mx my => ⟨.arUpdate, v.val, 0, [mx, my]⟩
  | .arProcess v => ⟨.arProcess, v.val, 0, []⟩
  | .arGetAmp v i => ⟨.arGetAmp, v.val, i.val, []⟩
  | .poSetFreq v i f => ⟨.poSetFreq, v.val, i.val, [f]⟩
  | .poReset v i => ⟨.poReset, v.val, i.val, []⟩
  | .poStep v i pm => ⟨.poStep, v.val, i.val, [pm]⟩
  | .rfbReset v => ⟨.rfbReset, v.val, 0, []⟩
  | .rfbLoadModel v s ops => ⟨.rfbLoadModel, v.val, s.val, ops⟩
  | .rfbSetBase v f => ⟨.rfbSetBase, v.val, 0, [f]⟩
  | .rfbUpdate v mx my res det => ⟨.rfbUpdate, v.val, 0, [mx, my, res, det]⟩
  | .rfbProcess v x => ⟨.rfbProcess, v.val, 0, [x]⟩
  | .rfbGetAmp v i => ⟨.rfbGetAmp, v.val, i.val, []⟩
  | .envReset v e => ⟨.envReset, v.val, e.val, []⟩
  | .envSetAttack v e t => ⟨.envSetAttack, v.val, e.val, [t]⟩
  | .envSetDecay v e t => ⟨.envSetDecay, v.val, e.val, [t]⟩
  | .envSetSustain v e level => ⟨.envSetSustain, v.val, e.val, [level]⟩
  | .envSetRelease v e t => ⟨.envSetRelease, v.val, e.val, [t]⟩
  | .envNoteOn v e => ⟨.envNoteOn, v.val, e.val, []⟩
  | .envNoteOff v e => ⟨.envNoteOff, v.val, e.val, []⟩
  | .envProcess v e => ⟨.envProcess, v.val, e.val, []⟩
  | .envGetLevel v e => ⟨.envGetLevel, v.val, e.val, []⟩
  | .envGetState v e => ⟨.envGetState, v.val, e.val, []⟩
  | .fbReset v => ⟨.fbReset, v.val, 0, []⟩
  | .fbSetCutoff v f => ⟨.fbSetCutoff, v.val, 0, [f]⟩
  | .fbSetRes v r => ⟨.fbSetRes, v.val, 0, [r]⟩
  | .fbSetMode v mode => ⟨.fbSetMode, v.val, mode.toNat, []⟩
  | .fbProcess v x => ⟨.fbProcess, v.val, 0, [x]⟩
  | .lfoReset j => ⟨.lfoReset, j.val, 0, []⟩
  | .lfoSetRate j r => ⟨.lfoSetRate, j.val, 0, [r]⟩
  | .lfoSetDepth j d => ⟨.lfoSetDepth, j.val, 0, [d]⟩
  | .lfoSetWave j wave => ⟨.lfoSetWave, j.val, wave.toNat, []⟩
  | .lfoSetSync j sync => ⟨.lfoSetSync, j.val, sync.toNat, []⟩
  | .lfoSetBpm j b => ⟨.lfoSetBpm, j.val, 0, [b]⟩
  | .lfoSetDiv j d => ⟨.lfoSetDiv, j.val, 0, [d]⟩
  | .lfoSeed j seed => ⟨.lfoSeed, j.val, 0, [seed]⟩
  | .lfoProcess j => ⟨.lfoProcess, j.val, 0, []⟩
  | .lfoGetValue j => ⟨.lfoGetValue, j.val, 0, []⟩
  | .lfoProcessBlock j count => ⟨.lfoProcessBlock, j.val, count.toNat, []⟩
  | .fxReset => ⟨.fxReset, 0, 0, []⟩
  | .fxSet p x => ⟨.fxSet, 0, p.val, [x]⟩
  | .fxLatch => ⟨.fxLatch, 0, 0, []⟩
  | .fxModAdd p delta => ⟨.fxModAdd, 0, p.val, [delta]⟩
  | .fxProcess x => ⟨.fxProcess, 0, 0, [x]⟩
  | .fxGetParam p => ⟨.fxGetParam, 0, p.val, []⟩

/-- The row of a command. -/
def Instr.op (i : Instr) : Op := (parts i).op

/-- The words of a command: the header and the operand words (R100, R101). -/
def encode (i : Instr) : List Word :=
  mkHeader (row (parts i).op).code (parts i).inst (parts i).idx :: (parts i).ops

/-- Is the command admitted on the port (R388)? -/
def Instr.admittedOn (i : Instr) (p : Port) : Bool := admitted p (row i.op)

/-- Does the command return a word (R88, R103)? -/
def Instr.returnsWord (i : Instr) : Bool := (row i.op).returns

/-! ## The written form of streams -/

/-- A word as bytes, least significant first: the convention of the written form (R84). -/
def wordBytes (w : Word) : List (BitVec 8) :=
  [w.extractLsb' 0 8, w.extractLsb' 8 8, w.extractLsb' 16 8, w.extractLsb' 24 8]

/-- The words of a byte stream, four bytes each, least significant first (R84); a last group of fewer
than four bytes is no word. -/
def wordsOfBytes : List (BitVec 8) → List Word
  | b0 :: b1 :: b2 :: b3 :: rest => (b3 ++ b2 ++ b1 ++ b0 : BitVec 32) :: wordsOfBytes rest
  | _ => []

/-- Word `k` of a number whose bit 0 is the least significant bit of the first word. -/
def wordOfNat (w k : Nat) : Word := BitVec.ofNat 32 (w / 2 ^ (32 * k))

/-- The words of the command whose bits are the low `nbits` bits of `w`, every higher bit 0: the header
and as many operand words as it calls for; the header alone when it is reserved. -/
def tableWords (nbits w : Nat) : List Word :=
  (List.range (1 + ((opOfCode (headerCode (wordOfNat (w % 2 ^ nbits) 0))).elim 0 fun o =>
    (row o).operands))).map fun k => wordOfNat (w % 2 ^ nbits) k

/-- The command the decoder reads from the bits of an opcode-table row, as presented on port AUD, which
admits every command (R388), of a machine with the reference number of voice slots (R12). -/
def decodeTableWord (nbits w : Nat) : Option Instr :=
  match decode referenceSettings.nv .aud (tableWords nbits w) with
  | .command i [] => some i
  | _ => none

end Sys2Proof
end

