-- ==== Sys2Proof/Machine/Fetch.lean ====
section
/-!
DEFINITION. How the next command is taken (20_memory.md R82 to R90): what each port's channel holds, which
port is served, and the removal of the command's words from its channel.
-/

namespace Sys2Proof.Machine

open Sys2Proof Config

/-- The words waiting on a port's command channel (R82). -/
def State.channel (s : State) (p : Port) : List Word :=
  match p with
  | .aud => s.cmdA
  | .ctl => s.cmdC

/-- What a port's channel holds at its head, by the port's own decoder (R388), which knows how many
voice slots the machine has (R105). -/
def State.head (s : State) (p : Port) : Decoded := decode s.settings.nv p (s.channel p)

/-- Has a port something to serve: a whole command, or a header without meaning (R85)? -/
def State.ready (s : State) (p : Port) : Bool := s.head p != .incomplete

/-- The other port. -/
def otherPort : Port → Port
  | .aud => .ctl
  | .ctl => .aud

/-- The port the hosts' order names next or, where they give none, the opaque arbiter (R90, U17;
assumption 2). -/
def State.preferred (s : State) : Port :=
  match s.order with
  | p :: _ => p
  | [] => arbiter s.turn

/-- The port to serve: the preferred one, or the other when only that one is ready (R90). -/
def State.served (s : State) : Port := if s.ready s.preferred then s.preferred else otherPort s.preferred

/-- Put the words left after a command back as a port's channel (R96: a command word is consumed when it
is accepted). -/
def State.setChannel (s : State) (p : Port) (rest : List Word) : State :=
  match p with
  | .aud => { s with cmdA := rest }
  | .ctl => { s with cmdC := rest }

/-- Accept a command on port `p`, leaving `rest` in its channel: it is the issuing port now, one turn is
over, and the order moves on if it named this port. -/
def State.accept (s : State) (p : Port) (rest : List Word) : State :=
  { s.setChannel p rest with
    port := p
    order := if s.order.head? = some p then s.order.tail else s.order
    turn := s.turn + 1 }

/-- The refusal a decoding error becomes. -/
def refusalOf : DecodeError → Refusal
  | .reservedHeader => .reservedHeader
  | .reservedField => .reservedField
  | .instanceOutOfRange => .instanceOutOfRange
  | .paramOutOfRange => .paramOutOfRange
  | .notAdmitted => .notAdmitted

end Sys2Proof.Machine
end

