-- ==== Sys2Proof/Machine/Step.lean ====
section
/-!
DEFINITION. One step of the machine: one whole command, atomically (20_memory.md R87), of the port served.
-/

namespace Sys2Proof.Machine

open Sys2Proof

/-- One step. With no whole command and no bad header on either port the machine waits and nothing changes
(R85, R394, U5); a header without meaning is refused (R112 to R114, R388); else the command is accepted and
executed to completion (R86, R87, R90). -/
def step (s : State) : Host.Outcome State Fault Refusal :=
  match s.head s.served with
  | .incomplete => .next s
  | .invalid e => .refused (refusalOf e)
  | .command i rest => exec i (s.accept s.served rest)

/-- The state with a command's words put first on AUD's channel, and AUD named first in the order, so that
the next step runs that command: this stands for the audio host presenting it (assumption 1). -/
def State.withFetchWord (s : State) (nbits w : Nat) : State :=
  { s with cmdA := tableWords nbits w ++ s.cmdA, order := .aud :: s.order }

end Sys2Proof.Machine
end

