-- ==== Sys2Proof/Safety.lean ====
section
/-!
DEFINITION. What counts as a safe state of the machine, and the words claims are made in: the value of a
binary32 number as a rational, registers in range (10_state.md R34, R36; 60_exceptions.md R383), envelopes
and LFOs in bounds (43 R234; 45 R291), lines in canonical form, what a command names (R55), and what it
means that a command returned a value (R88).
-/

namespace Sys2Proof.Machine

open Sys2Proof Config

/-! ## Values -/

/-- The exact value of a finite binary32 number as a rational; 0 for the others. -/
def toRat : F → ℚ
  | .fin s m => (if s then -1 else 1) * (F.magVal m.val : ℚ) / 2 ^ 149
  | _ => 0

/-- `r` is the binary32 value nearest to `x`, ties to even, and an infinity exactly from half a unit above
the largest finite value on (R18, R381). -/
def RoundsTo (x : ℚ) (r : F) : Prop :=
  match r with
  | .nan => False
  | .inf neg => (2 ^ 25 - 1) * 2 ^ 103 ≤ |x| ∧ (neg = true ↔ x < 0)
  | .fin neg mag =>
    |x| < (2 ^ 25 - 1) * 2 ^ 103 ∧ (x < 0 → neg = true) ∧ (0 < x → neg = false) ∧
    ∀ y : F, y.isFinite = true →
      |toRat (.fin neg mag) - x| ≤ |toRat y - x| ∧
      (|toRat (.fin neg mag) - x| = |toRat y - x| → toRat y = toRat (.fin neg mag) ∨ mag.val % 2 = 0)

/-- A finite value inside a row of RANGE. -/
def inRow (r : Range) (x : F) : Bool := x.isFinite && F.le r.lo x && F.le x r.hi

/-- A finite value inside the row of RANGE of a control (R34, R36). -/
def inRange (T : Settings) (c : Control) (x : F) : Bool := inRow (T.range c) x

/-- `0.0 <= x < 1.0`, sign bit clear: what a phase is (R38, R49). -/
def inPhase (x : F) : Bool := !x.signBit && F.le F.zero x && F.lt x F.one

/-- `0.0 <= x < 1.0`, either zero: what a multiplier is (R21, R222). -/
def inMultiplier (x : F) : Bool := F.le F.zero x && F.lt x F.one

/-- `-1.0 <= x < 1.0`: what a draw is (R153). -/
def inDraw (x : F) : Bool := F.le (F.neg F.one) x && F.lt x F.one

/-! ## Settings a machine may have (R36; D14) -/

/-- A row that can be clamped to: finite bounds in order, and the default between them. -/
def rowProper (r : Range) : Bool :=
  r.lo.isFinite && r.hi.isFinite && F.le r.lo r.hi && inRow r r.dflt

/-- Both bounds of a row lie between two values. -/
def rowWithin (lo hi : F) (r : Range) : Bool := F.le lo r.lo && F.le r.hi hi

/-- The settings are bounds and defaults, and "tight enough that no rule divides by zero or overflows" (D14):
the model's own reading of that sentence, wide enough for the reference table and far beyond (assumption 9).
The amounts and mixes are in `[0, 1]`, as R306 and R307 say, there are 1 to 256 voice slots (U15), and the
delays `1 .. DLY_LEN - 1` are some (R308). -/
structure SettingsOk (T : Settings) : Prop where
  slots : 0 < T.nv ∧ T.nv ≤ nvMax
  line : 1 < T.dlyLen
  rows : ∀ c : Control, rowProper (T.range c) = true
  rate : rowWithin (F.lit 1 1) (F.lit (2 ^ 60) 1) T.sysFs = true
  times : ∀ c ∈ ([.envAttack, .envDecay, .envRelease] : List Control),
    rowWithin (F.lit 1 (2 ^ 60)) (F.lit (2 ^ 60) 1) (T.range c) = true
  units : ∀ c ∈ ([.envSustain, .fxMaster, .fxSat, .fxChMix, .fxRvMix] : List Control),
    rowWithin F.zero F.one (T.range c) = true
  lfoRate : rowWithin F.zero (F.lit (2 ^ 60) 1) T.lfoRate = true
  tempo : rowWithin F.zero (F.lit (2 ^ 30) 1) T.lfoBpm = true ∧ rowWithin F.zero (F.lit (2 ^ 30) 1) T.lfoDiv = true
  depth : F.le F.zero T.lfoDepth.lo = true
  delay : rowWithin F.zero (F.lit (2 ^ 60) 1) T.fxDlyTime = true
  cached : inRow T.rfbDetune F.zero = true ∧ inRow T.modelOff F.zero = true
  freq : T.poFreq.lo.isFinite = true ∧ F.le F.zero T.poFreq.hi = true ∧
    F.le T.poFreq.lo T.poFreq.dflt = true ∧ F.le T.poFreq.dflt (F.mul T.poFreq.hi T.sysFs.lo) = true ∧
    (F.mul T.poFreq.hi T.sysFs.hi).isFinite = true
  smooth : inUnit T.smoothK = true

/-- The greatest increment an LFO can be given: that of the highest free rate or of the highest synced one,
at the lowest sample rate (R272). It is 0.04 at the reference settings. -/
def incMax (T : Settings) : F :=
  if F.le (F.div T.lfoRate.hi T.sysFs.lo)
      (F.div (F.mul (F.div T.lfoBpm.hi (F.lit 60 1)) T.lfoDiv.hi) T.sysFs.lo) then
    F.div (F.mul (F.div T.lfoBpm.hi (F.lit 60 1)) T.lfoDiv.hi) T.sysFs.lo
  else F.div T.lfoRate.hi T.sysFs.lo

/-! ## Parameter registers (R34, R36, R383) -/

/-- The 128 entries of a model are in range. -/
def ModelState.InRange (T : Settings) (m : ModelState) : Prop :=
  ∀ k : Fin np, inRange T .modelAmp m.amp[k] = true ∧ inRange T .modelOff m.off[k] = true

/-- The parameters of an additive resonator, its models among them, are in range. -/
def ArState.InRange (T : Settings) (a : ArState) : Prop :=
  inRange T .arBase a.base = true ∧ inRange T .arStretch a.stretch = true ∧
  inRange T .arEntropy a.entropy = true ∧ inRange T .arDetune a.detune = true ∧
  ∀ k : Fin nslot, a.model[k].InRange T

/-- The parameters of a filter bank, its cached operands and models among them, are in range. -/
def RfbState.InRange (T : Settings) (b : RfbState) : Prop :=
  inRange T .rfbBase b.base = true ∧ inRange T .morph b.lastMx = true ∧ inRange T .morph b.lastMy = true ∧
  inRange T .resonance b.lastRes = true ∧ inRange T .rfbDetune b.lastDet = true ∧
  ∀ k : Fin nslot, b.model[k].InRange T

/-- The parameters of an envelope are in range. -/
def EnvState.InRange (T : Settings) (n : EnvState) : Prop :=
  inRange T .envAttack n.attMs = true ∧ inRange T .envDecay n.decMs = true ∧
  inRange T .envSustain n.sus = true ∧ inRange T .envRelease n.relMs = true

/-- The parameters of a biquad filter are in range. -/
def FbState.InRange (T : Settings) (b : FbState) : Prop :=
  inRange T .fbCutoff b.cutoff = true ∧ inRange T .fbRes b.res = true

/-- The parameters of an LFO are in range. -/
def LfoState.InRange (T : Settings) (l : LfoState) : Prop :=
  inRange T .lfoRate l.rate = true ∧ inRange T .lfoDepth l.depth = true ∧
  inRange T .lfoBpm l.bpm = true ∧ inRange T .lfoDiv l.div = true

/-- The six effect parameters are in range, pending and latched. -/
def FxState.InRange (T : Settings) (x : FxState) : Prop :=
  ∀ p : Fin nfx, inRange T (fxControl p) x.pend[p] = true ∧ inRange T (fxControl p) x.cur[p] = true

/-- The settings are proper and every parameter register holds a finite value inside its range
(R34, R383). -/
structure State.ParamsInRange (s : State) : Prop where
  settings : SettingsOk s.settings
  fs : inRange s.settings .sysFs s.sys.fs = true
  ar : ∀ v : Fin nvMax, s.ar[v].InRange s.settings
  rfb : ∀ v : Fin nvMax, s.rfb[v].InRange s.settings
  env : ∀ (v : Fin nvMax) (e : Fin 2), s.env[v][e].InRange s.settings
  fb : ∀ v : Fin nvMax, s.fb[v].InRange s.settings
  lfo : ∀ j : Fin nlfo, s.lfo[j].InRange s.settings
  fx : s.fx.InRange s.settings

/-! ## Bounded signals -/

/-- An envelope's level is in `[0, 1]` and its multipliers in `[0, 1)` (R234, R386). -/
def EnvState.Bounded (n : EnvState) : Prop :=
  inUnit n.level = true ∧ inMultiplier n.mA = true ∧ inMultiplier n.mD = true ∧
  inMultiplier n.mR = true

/-- An LFO's phase is in `[0, 1)`, its increment finite and between 0 and the greatest the settings give
(0.04 at the reference settings), its Sample-and-Hold registers in `[-1, 1)` (R283, R286, R291). -/
def LfoState.Bounded (T : Settings) (l : LfoState) : Prop :=
  inPhase l.phase = true ∧ inRow ⟨F.zero, incMax T, F.zero⟩ l.inc = true ∧
  inDraw l.shPrev = true ∧ inDraw l.shNext = true

/-- Every envelope is bounded. -/
def State.EnvsBounded (s : State) : Prop := ∀ (v : Fin nvMax) (e : Fin 2), s.env[v][e].Bounded

/-- Every LFO is bounded. -/
def State.LfosBounded (s : State) : Prop := ∀ j : Fin nlfo, s.lfo[j].Bounded s.settings

/-- The three effect lines are in canonical form, and the delay's write index is inside its line (R52;
assumptions 7, 14). -/
def State.LinesCanonical (s : State) : Prop :=
  s.fx.dly.wf s.settings.dlyLen = true ∧ s.fx.dlyW < s.settings.dlyLen ∧
  s.fx.ch.line.canonical = true ∧ s.fx.rv.line.canonical = true

/-- Every element of the three effect lines is finite (R318). -/
def FxState.LinesFinite (x : FxState) : Prop :=
  lineFinite x.dly = true ∧ lineFinite x.ch.line = true ∧ lineFinite x.rv.line = true

/-- The places beyond the machine's voice slots hold what power-on put there, so that equal machines are equal
data (R12; assumption 30). -/
def State.AbsentAtPowerOn (s : State) : Prop :=
  ∀ v : Fin nvMax, s.settings.nv ≤ v.val →
    s.ar[v] = ArState.powerOn s.settings ∧ s.rfb[v] = RfbState.powerOn s.settings ∧
    s.env[v] = Vector.replicate 2 (EnvState.powerOn s.settings) ∧ s.fb[v] = FbState.powerOn s.settings

/-! ## Derived registers that are not stale (R97, R406) -/

/-- A clean filter bank holds what a recomputation from its parameters and cached operands would write
(R204). -/
def RfbState.Fresh (fs : F) (b : RfbState) : Prop :=
  b.dirty = false → rfbRecompute params fs b b.lastMx b.lastMy b.lastRes b.lastDet = b

/-- A clean envelope holds the multipliers of its times (R223). -/
def EnvState.Fresh (fs : F) (n : EnvState) : Prop :=
  n.dirty = false →
    n.mA = envMult params fs n.attMs ∧ n.mD = envMult params fs n.decMs ∧ n.mR = envMult params fs n.relMs

/-- A clean biquad holds the coefficients of its parameters (R260). -/
def FbState.Fresh (fs : F) (b : FbState) : Prop := b.dirty = false → fbRecompute params fs b = b

/-- A clean LFO holds the increment of its rate (R272). -/
def LfoState.Fresh (fs : F) (l : LfoState) : Prop := l.dirty = false → l.inc = F.div (lfoRate l) fs

/-- No derived register of a filter bank, envelope, biquad or LFO is stale while its flag is clear. -/
def State.DerivedFresh (s : State) : Prop :=
  (∀ v : Fin nvMax, s.rfb[v].Fresh s.sys.fs) ∧ (∀ (v : Fin nvMax) (e : Fin 2), s.env[v][e].Fresh s.sys.fs) ∧
  (∀ v : Fin nvMax, s.fb[v].Fresh s.sys.fs) ∧ (∀ j : Fin nlfo, s.lfo[j].Fresh s.sys.fs)

/-! ## What the encoding reserves (R112 to R114), in the words of the rules -/

/-- The `unit` field, bits 31:28 (R101). -/
def unitField (h : Word) : Nat := (h.extractLsb' 28 4).toNat
/-- The `func` field, bits 27:24 (R101). -/
def funcField (h : Word) : Nat := (h.extractLsb' 24 4).toNat

/-- The (unit, func) pairs R112 lists as reserved. -/
def reservedPair (u f : Nat) : Bool :=
  7 ≤ u || 13 ≤ f ||
  (u == 0 && (f == 0 || 3 ≤ f)) ||
  (u == 2 && ((3 ≤ f && f ≤ 6) || 10 ≤ f)) ||
  (u == 3 && (f == 7 || 11 ≤ f)) ||
  (u == 4 && ((4 ≤ f && f ≤ 7) || 9 ≤ f)) ||
  (u == 5 && 11 ≤ f) ||
  (u == 6 && ((4 ≤ f && f ≤ 7) || 10 ≤ f))

/-- The bound on the `idx` field of a command, beyond which must-be-zero bits are set (R106, R113). The
parameter id of unit 6 is not among them: R114 refuses it by value. -/
def idxBound (u f : Nat) : Nat :=
  if u = 0 then (if f = 2 then 2 ^ 16 else 1)
  else if u = 1 then (if f = 1 then 4 else if f = 9 ∨ f = 10 ∨ f = 11 ∨ f = 12 then 128 else 1)
  else if u = 2 then (if f = 1 then 4 else if f = 9 then 128 else 1)
  else if u = 3 then 2
  else if u = 4 then (if f = 3 then 2 ^ 16 else 1)
  else if u = 5 then (if f = 3 ∨ f = 4 ∨ f = 10 then 2 ^ 16 else 1)
  else (if f = 1 ∨ f = 3 ∨ f = 9 then 2 ^ 16 else 1)

/-- Must-be-zero bits of `inst` or `idx` are set (R105, R106, R113). -/
def mustBeZeroBroken (h : Word) : Bool :=
  ((unitField h == 0 || unitField h == 6) && headerInst h != 0) ||
  idxBound (unitField h) (funcField h) ≤ headerIdx h

/-- The voice slot is not below `nv`, or the LFO number is above 1 (R105, R114). -/
def instanceBroken (nv : Nat) (h : Word) : Bool :=
  (1 ≤ unitField h && unitField h ≤ 4 && nv ≤ headerInst h) || (unitField h == 5 && 2 ≤ headerInst h)

/-- The effect parameter id is above 5 (R106, R114). -/
def paramBroken (h : Word) : Bool :=
  unitField h == 6 && (funcField h == 1 || funcField h == 3 || funcField h == 9) && 6 ≤ headerIdx h

/-! ## What a command names (R55) -/

/-- The LFO a command is addressed to, if it is addressed to one (R105). -/
def lfoOf : Instr → Option LfoSel
  | .lfoReset j | .lfoSetRate j _ | .lfoSetDepth j _ | .lfoSetWave j _ | .lfoSetSync j _
  | .lfoSetBpm j _ | .lfoSetDiv j _ | .lfoSeed j _ | .lfoProcess j | .lfoGetValue j
  | .lfoProcessBlock j _ => some j
  | .sysReset | .sysPrepare .. | .arReset .. | .arLoadModel .. | .arSetBase .. | .arSetStretch ..
  | .arSetEntropy .. | .arSetDetune .. | .arSeed .. | .arUpdate .. | .arProcess .. | .arGetAmp ..
  | .poSetFreq .. | .poReset .. | .poStep .. | .rfbReset .. | .rfbLoadModel .. | .rfbSetBase ..
  | .rfbUpdate .. | .rfbProcess .. | .rfbGetAmp .. | .envReset .. | .envSetAttack .. | .envSetDecay ..
  | .envSetSustain .. | .envSetRelease .. | .envNoteOn .. | .envNoteOff .. | .envProcess ..
  | .envGetLevel .. | .envGetState .. | .fbReset .. | .fbSetCutoff .. | .fbSetRes .. | .fbSetMode ..
  | .fbProcess .. | .fxReset | .fxSet .. | .fxLatch | .fxModAdd .. | .fxProcess .. | .fxGetParam .. =>
    none

/-- Oscillator or filter `k`: the primary of partial `k` (R27). -/
def primaryOf (k : Fin np) : Fin nosc := ⟨k.val, by have := k.isLt; simp only [np, nosc] at *; omega⟩

/-- Oscillator or filter `k + 64`: the unison twin of partial `k` (R27). -/
def twinOf (k : Fin np) : Fin nosc := ⟨k.val + 64, by have := k.isLt; simp only [np, nosc] at *; omega⟩

/-! ## Results (R88) -/

/-- The result queue of a port. -/
def State.results (s : State) (p : Port) : List Word :=
  match p with
  | .aud => s.qa
  | .ctl => s.qc

/-- `w` is a pattern of the value `x`: its one pattern, or any NaN pattern for a NaN (R17, R19, U9). -/
def IsPatternOf (w : Word) (x : F) : Prop :=
  (x ≠ .nan ∧ F.asF w = x) ∨ (x = .nan ∧ F.isNanPattern w = true)

/-- `t` is `s` with the word `w` appended to the issuing port's queue, and nothing else changed but the
model's counter of NaN patterns (R88). -/
def AppendedWord (s t : State) (w : Word) : Prop :=
  t = { s with
        qa := if s.port = .aud then s.qa ++ [w] else s.qa
        qc := if s.port = .ctl then s.qc ++ [w] else s.qc
        nanDraws := t.nanDraws }

/-- From `s` the value `x` was returned, giving `t`, and nothing else was done (R88). -/
def Returned (s t : State) (x : F) : Prop := ∃ w, IsPatternOf w x ∧ AppendedWord s t w

end Sys2Proof.Machine
end

