-- ==== Sys2Proof/Certificates/Slice0/Obligations.lean ====
section
/-!
DEFINITION. The statements about the model, from the numbered rules of spec/, for the provers. `params` is
the machine's record of open functions, so a statement holds for every choice of them. `Returned s t x`
(Safety.lean) says that the value `x` was appended to the issuing port's queue and nothing else was done.
-/

section

open Sys2Proof Sys2Proof.Machine Sys2Proof.Config

/-! ## Encoding -/

/-- Decoding an encoded well-formed command gives it back, and the words after it, whatever the number `nv` of
voice slots (R100 to R107). -/
def Obligations.DecodeOfEncodeIsTheCommand : Prop :=
  ∀ (nv : Nat) (i : Instr) (rest : List Word), i.WellFormed nv →
    decode nv .aud (encode i ++ rest) = .command i rest

/-- Whatever decodes is a well-formed command the port admits, its voice slot below `nv`, and the words consumed
are exactly its encoding: no command has two spellings (R100 to R107, R113, R388). -/
def Obligations.DecodedWordsAreTheEncoding : Prop :=
  ∀ (nv : Nat) (p : Port) (ws : List Word) (i : Instr) (rest : List Word), decode nv p ws = .command i rest →
    i.WellFormed nv ∧ i.admittedOn p = true ∧ ws = encode i ++ rest

/-- Port CTL admits exactly the twenty commands R388 lists and refuses every other one by name. -/
def Obligations.CtlAdmitsExactlyItsTwentyCommands : Prop :=
  ∀ (nv : Nat) (i : Instr) (rest : List Word), i.WellFormed nv →
    decode nv .ctl (encode i ++ rest) =
      if i.op ∈ ([.arGetAmp, .rfbGetAmp, .envSetAttack, .envSetDecay, .envSetSustain, .envSetRelease,
          .envGetLevel, .envGetState, .fbSetCutoff, .fbSetRes, .fbSetMode, .lfoSetRate, .lfoSetDepth,
          .lfoSetWave, .lfoSetSync, .lfoSetBpm, .lfoSetDiv, .lfoGetValue, .fxSet, .fxGetParam] : List Op)
      then .command i rest else .invalid .notAdmitted

/-- A header is refused as reserved exactly when its (unit, func) pair is one R112 lists, on either port
and whatever follows it, and a step that serves such a header refuses. -/
def Obligations.ReservedHeadersAreExactlyTheListedPairs : Prop :=
  (∀ (nv : Nat) (p : Port) (h : Word) (ws : List Word),
    decode nv p (h :: ws) = .invalid .reservedHeader ↔ reservedPair (unitField h) (funcField h) = true) ∧
  ∀ (s : State) (h : Word) (ws : List Word), s.channel s.served = h :: ws →
    reservedPair (unitField h) (funcField h) = true → step s = .refused .reservedHeader

/-- A header of a known pair is refused for set must-be-zero bits (R113), for an instance that does not exist on a
machine with `nv` voice slots and for a parameter id above 5 (R114). Where several apply, the order is the model's
choice (assumption 17). -/
def Obligations.BadFieldsAreRefusedByName : Prop :=
  ∀ (nv : Nat) (p : Port) (h : Word) (ws : List Word), reservedPair (unitField h) (funcField h) = false →
    (mustBeZeroBroken h = true → decode nv p (h :: ws) = .invalid .reservedField) ∧
    (mustBeZeroBroken h = false → instanceBroken nv h = true →
      decode nv p (h :: ws) = .invalid .instanceOutOfRange) ∧
    (mustBeZeroBroken h = false → instanceBroken nv h = false → paramBroken h = true →
      decode nv p (h :: ws) = .invalid .paramOutOfRange)

/-- The words of a few commands written out from R101 and R103 decode to them on a machine with 32 voice slots, and
the last slot a header can name on one with 256 (R105, U15). -/
def Obligations.WrittenWordsDecode : Prop :=
  decode 32 .aud [0x0200007B#32, 0x473B8000#32] = .command (.sysPrepare 123#16 0x473B8000#32) [] ∧
  decode 32 .aud [0x1905007F#32] = .command (.arGetAmp 5 127) [] ∧
  decode 32 .aud [0x1C000040#32, 0x3E800000#32] = .command (.poStep 0 64 0x3E800000#32) [] ∧
  decode 32 .aud [0x27020000#32, 1#32, 2#32, 3#32, 4#32] = .command (.rfbUpdate 2 1#32 2#32 3#32 4#32) [] ∧
  decode 32 .ctl [0x34030001#32, 0x43FA0000#32] = .command (.envSetRelease 3 1 0x43FA0000#32) [] ∧
  decode 32 .ctl [0x431F0002#32] = .command (.fbSetMode 31 2#16) [] ∧
  decode 32 .aud [0x5A01FFFF#32] = .command (.lfoProcessBlock 1 65535#16) [] ∧
  decode 32 .ctl [0x61000005#32, 0x3F800000#32] = .command (.fxSet 5 0x3F800000#32) [] ∧
  decode 32 .aud [0x40FF0000#32] = .invalid .instanceOutOfRange ∧
  decode 256 .aud [0x40FF0000#32] = .command (.fbReset 255) []

/-! ## Steps -/

/-- An incomplete command executes nothing and waits (R85): a proper prefix of a command's words is
incomplete on a port that admits it, and a step with nothing complete on either port changes nothing. -/
def Obligations.IncompleteCommandWaits : Prop :=
  (∀ (nv : Nat) (p : Port) (i : Instr) (k : Nat), i.WellFormed nv → i.admittedOn p = true →
    k < (encode i).length → decode nv p ((encode i).take k) = .incomplete) ∧
  ∀ s : State, s.head .aud = .incomplete → s.head .ctl = .incomplete → step s = .next s

/-- A machine to which no command is sent holds its state for any number of steps (R394). -/
def Obligations.IdleMachineHoldsItsState : Prop :=
  ∀ (s : State) (n : Nat), s.cmdA = [] → s.cmdC = [] → Sys2Proof.core.run n s = .next s

/-- A step runs the decoded command (R86, R87): when the served port's channel starts with the words of a
well-formed command the port admits, the step is `exec` of it on the state whose channel has lost those
words. The channels, the consumed head of the order, the turn and the port field are the model's own
bookkeeping, of which the rules say nothing (assumptions 1 to 3, DESIGN CHOICE). -/
def Obligations.StepRunsTheDecodedCommand : Prop :=
  ∀ (s : State) (p : Port) (i : Instr) (rest : List Word), i.WellFormed s.settings.nv → i.admittedOn p = true →
    s.served = p → s.channel p = encode i ++ rest →
    step s = exec i
      { s with
        cmdA := if p = .aud then rest else s.cmdA
        cmdC := if p = .ctl then rest else s.cmdC
        port := p
        order := if s.order.head? = some p then s.order.tail else s.order
        turn := s.turn + 1 }

/-- Which port is served (R90): the only ready one, and with both ready the one the agents' order names
or, where it names none, whichever the unconstrained arbiter says. The order and the arbiter are the
model's choice (assumption 2); the rule leaves the interleaving open. -/
def Obligations.ServedPortIsReadyAndOrdered : Prop :=
  ∀ s : State,
    (s.ready .aud = true → s.ready .ctl = false → s.served = .aud) ∧
    (s.ready .aud = false → s.ready .ctl = true → s.served = .ctl) ∧
    (s.ready .aud = true → s.ready .ctl = true →
      (∀ p ps, s.order = p :: ps → s.served = p) ∧ (s.order = [] → s.served = arbiter s.turn))

/-- `withFetchWord` presents one command, which the very next step executes. It stands for the audio host
presenting it, on any machine that has the voice slot the command names: the model's own (assumption 1). -/
def Obligations.WithFetchWordRunsTheCommand : Prop :=
  ∀ (s : State) (nbits w : Nat) (i : Instr), decodeTableWord nbits w = some i →
    i.WellFormed s.settings.nv → step (s.withFetchWord nbits w) = exec i { s with port := .aud, turn := s.turn + 1 }

/-- A stream of commands on port AUD runs to completion in as many steps, consumes every word, and puts
one word in the result queue for each command that returns one and nothing else there (R86, R88, R380). -/
def Obligations.AudStreamRunsToCompletion : Prop :=
  ∀ (is : List Instr) (s : State), (∀ i ∈ is, i.WellFormed s.settings.nv) → s.cmdA = is.flatMap encode →
    s.cmdC = [] →
    ∃ (t : State) (ws : List Word), Sys2Proof.core.run is.length s = .next t ∧ t.cmdA = [] ∧
      t.qa = s.qa ++ ws ∧ ws.length = (is.filter Instr.returnsWord).length ∧ t.qc = s.qc

/-! ## Arithmetic -/

/-- Rounding is to nearest, ties to even, with overflow to an infinity, and the four operations on finite
values are the exact results rounded once (R18, R381). -/
def Obligations.OperationsRoundTheExactResult : Prop :=
  (∀ (neg : Bool) (n d : Nat), 0 < d →
    RoundsTo ((if neg then -1 else 1) * (n : ℚ) / d / 2 ^ 149) (F.round neg n d)) ∧
  ∀ a b : F, a.isFinite = true → b.isFinite = true →
    RoundsTo (toRat a + toRat b) (F.add a b) ∧ RoundsTo (toRat a - toRat b) (F.sub a b) ∧
    RoundsTo (toRat a * toRat b) (F.mul a b) ∧
    (toRat b ≠ 0 → RoundsTo (toRat a / toRat b) (F.div a b))

/-- Floating-point exceptional cases give values (R381): the invalid operations a NaN, a non-zero value
over zero an infinity of the signs' product, and a comparison with a NaN is false but for `!=` (R18). -/
def Obligations.ExceptionalCasesGiveValues : Prop :=
  (∀ s : Bool, F.sub (.inf s) (.inf s) = .nan ∧ F.add (.inf s) (.inf !s) = .nan) ∧
  (∀ s t : Bool, F.mul (.fin s 0) (.inf t) = .nan ∧ F.mul (.inf t) (.fin s 0) = .nan ∧
    F.div (.fin s 0) (.fin t 0) = .nan ∧ F.div (.inf s) (.inf t) = .nan) ∧
  (∀ (s t : Bool) (m : Fin magInf), m ≠ 0 → F.div (.fin s m) (.fin t 0) = .inf (s != t)) ∧
  ∀ x : F, F.lt x .nan = false ∧ F.le x .nan = false ∧ F.gt x .nan = false ∧ F.ge x .nan = false ∧
    F.feq x .nan = false ∧ F.fne x .nan = true ∧ F.lt .nan x = false ∧ F.le .nan x = false ∧
    F.gt .nan x = false ∧ F.ge .nan x = false ∧ F.feq .nan x = false ∧ F.fne .nan x = true

/-- `floor` and `wrap01` (R20), whole: the largest integral value not above, exact; NaN and infinities;
`wrap01` as it is defined; its value in `[0, 1)` for finite arguments and a NaN for the others. That the value's
sign bit is clear is not in the rule: at `-0.0` it rests on the model's sign of a zero floor (assumption 15,
PRESUMED). -/
def Obligations.FloorAndWrapAreAsDefined : Prop :=
  (∀ x : F, x.isFinite = true →
    (F.floor x).isFinite = true ∧ toRat (F.floor x) = ((⌊toRat x⌋ : Int) : ℚ)) ∧
  F.floor .nan = .nan ∧ (∀ s : Bool, F.floor (.inf s) = .inf s) ∧
  (∀ t : F, F.wrap01 t =
    if F.ge (F.sub t (F.floor t)) (F.lit 1 1) then F.zero else F.sub t (F.floor t)) ∧
  (∀ t : F, t.isFinite = true → (F.wrap01 t).isFinite = true ∧ inPhase (F.wrap01 t) = true) ∧
  ∀ t : F, t.isFinite = false → F.wrap01 t = .nan

/-- Every validated control operand is finite and inside its row of RANGE, whatever the word (R22, R36,
R383); a word already inside is kept, one below or above takes the nearer bound, and a non-finite one the
default. The oscillator frequency operand lies between its bounds, the upper one a factor of SYS.FS. It holds
for all settings a machine may have (assumption 9). -/
def Obligations.ValidatedOperandsAreInRange : Prop :=
  ∀ T : Settings, SettingsOk T →
    (∀ (c : Control) (w : Word), inRange T c (control T c w) = true ∧
      ((F.asF w).isFinite = false → control T c w = (T.range c).dflt) ∧
      (inRange T c (F.asF w) = true → control T c w = F.asF w) ∧
      ((F.asF w).isFinite = true → F.lt (F.asF w) (T.range c).lo = true → control T c w = (T.range c).lo) ∧
      ((F.asF w).isFinite = true → F.gt (F.asF w) (T.range c).hi = true → control T c w = (T.range c).hi)) ∧
    ∀ (fs : F) (w : Word), inRange T .sysFs fs = true →
      inRow ⟨T.poFreq.lo, F.mul T.poFreq.hi fs, T.poFreq.dflt⟩ (freqOperand T fs w) = true

/-- The enumerated operands (R110): the four filter modes, the six waveforms, the two sync codes, and the
default 0 for every other value. -/
def Obligations.EnumeratedOperandsFallBackToZero : Prop :=
  (filterModeOf 0#16 = .lowPass ∧ filterModeOf 1#16 = .highPass ∧ filterModeOf 2#16 = .bandPass ∧
    filterModeOf 3#16 = .notch ∧ ∀ m : BitVec 16, 3 < m.toNat → filterModeOf m = filterModeOf 0#16) ∧
  (waveOf 0#16 = .sine ∧ waveOf 1#16 = .triangle ∧ waveOf 2#16 = .sawUp ∧ waveOf 3#16 = .sawDown ∧
    waveOf 4#16 = .square ∧ waveOf 5#16 = .sampleHold ∧
    ∀ w : BitVec 16, 5 < w.toNat → waveOf w = waveOf 0#16) ∧
  (syncOf 0#16 = false ∧ syncOf 1#16 = true ∧ ∀ m : BitVec 16, 1 < m.toNat → syncOf m = syncOf 0#16)

/-- The contracts on the open functions lose none of them: where the raw functions of a record meet the
properties of R21 (NUM), R153 (RNG), R306 (SAT_FN), R307 (CHORUS_KERNEL) and R309 (REVERB_KERNEL), with the
finiteness D41 adds for the last three and what R384 asks of them for a non-finite sample, the machine uses them
unchanged. The correction elsewhere is the model's, and so are the shape of a kernel's state and the reading of
R384 (assumptions 5 to 8 and 29). -/
def Obligations.ContractsKeepEveryAllowedFunction : Prop :=
  ∀ P : Params,
    (P.rawExp .nan = .nan → (∀ x : F, x.isFinite = true → F.lt x F.zero = true →
      inMultiplier (P.rawExp x) = true) → fexp P = P.rawExp) ∧
    (P.rawSin .nan = .nan → P.rawSin F.zero = F.zero → (∀ x : F, x.isFinite = true →
      F.le (F.neg F.one) (P.rawSin x) = true ∧ F.le (P.rawSin x) F.one = true) → fsin P = P.rawSin) ∧
    (P.rawCos .nan = .nan → (∀ x : F, x.isFinite = true →
      F.le (F.neg F.one) (P.rawCos x) = true ∧ F.le (P.rawCos x) F.one = true) → fcos P = P.rawCos) ∧
    ((∀ x y : F, x = .nan ∨ y = .nan → P.rawPow x y = .nan) → (∀ x : F, P.rawPow x F.one = x) →
      (∀ y : F, y.isFinite = true → P.rawPow F.one y = F.one) → fpow P = P.rawPow) ∧
    ((∀ w : Word, inDraw (P.rawBipolar w) = true) → rngBipolar P = P.rawBipolar) ∧
    ((∀ x a : F, inUnit a = true → (P.rawSat x a).isFinite = x.isFinite) →
      (∀ x a : F, x.isFinite = true → F.feq a F.zero = true → F.feq (P.rawSat x a) x = true) →
      (∀ x a : F, inUnit a = true → sameValue (P.rawSat (F.neg x) a) (F.neg (P.rawSat x a)) = true) →
      satFn P = P.rawSat) ∧
    ∀ raw : KernelState → F → F → KernelStep,
      (∀ (k : KernelState) (x mix : F), x.isFinite = true → lineFinite k.line = true → inUnit mix = true →
        (raw k x mix).out.isFinite = true ∧
        lineFinite (applyWrites k.line (raw k x mix).writes) = true ∧
        (F.feq mix F.zero = true → F.feq (raw k x mix).out x = true)) →
      (∀ (k : KernelState) (x mix : F), x.isFinite = false → inUnit mix = true →
        (raw k x mix).out.isFinite = false ∧
        lineFinite (applyWrites k.line (raw k x mix).writes) = false) →
      ∀ (k : KernelState) (x mix : F),
        let answer : KernelState × F :=
          (⟨applyWrites k.line (raw k x mix).writes, (raw k x mix).index, (raw k x mix).own⟩,
            (raw k x mix).out)
        (P.rawChorus = raw → chorusKernel P k x mix = answer) ∧
        (P.rawReverb = raw → reverbKernel P k x mix = answer)

/-! ## Reset -/

/-- Power-on leaves the values of R400 in every field, and the settings are the table R36 prints with the NV of
R12 and the DLY_LEN and SMOOTH_K of R14. The places beyond the voice slots hold the same (assumption 30). The
channels, the order, the counters and the port are the model's own (assumptions 1 to 4), as are the place of the
settings (assumption 9) and the empty record that stands for a kernel's reset state (assumption 7). -/
def Obligations.ResetHoldsPowerOnValues : Prop :=
  let s := Sys2Proof.core.reset
  s.sys.fs = F.asF 0x473B8000#32 ∧ s.sys.block = 0#16 ∧
  (∀ v : Fin nvMax,
    (∀ i : Fin nosc, s.ar[v].osc[i] = ⟨F.zero, F.zero, F.zero⟩ ∧ s.ar[v].amp[i] = F.zero) ∧
    (∀ k : Fin nslot, s.ar[v].model[k].valid = false ∧ s.rfb[v].model[k].valid = false ∧
      ∀ j : Fin np, s.ar[v].model[k].amp[j] = F.zero ∧ s.ar[v].model[k].off[j] = F.zero ∧
        s.rfb[v].model[k].amp[j] = F.zero ∧ s.rfb[v].model[k].off[j] = F.zero) ∧
    s.ar[v].base = F.asF 0x43DC0000#32 ∧ s.ar[v].stretch = F.zero ∧ s.ar[v].entropy = F.zero ∧
    s.ar[v].detune = F.zero ∧ s.ar[v].norm = F.zero ∧ s.ar[v].rng = 0#32 ∧ s.ar[v].dirty = true ∧
    (∀ i : Fin nosc, s.rfb[v].filt[i] = ⟨F.zero, F.zero, F.zero, F.zero, F.zero, F.zero, F.zero⟩) ∧
    s.rfb[v].base = F.asF 0x43DC0000#32 ∧ s.rfb[v].lastMx = F.zero ∧ s.rfb[v].lastMy = F.zero ∧
    s.rfb[v].lastRes = F.zero ∧ s.rfb[v].lastDet = F.zero ∧ s.rfb[v].dirty = true ∧
    (∀ e : Fin 2, s.env[v][e] =
      ⟨.idle, F.zero, F.asF 0x41200000#32, F.asF 0x42C80000#32, F.asF 0x3F333333#32,
        F.asF 0x43FA0000#32, F.zero, F.zero, F.zero, true⟩) ∧
    s.fb[v] = ⟨F.asF 0x469C4000#32, F.zero, .lowPass, F.zero, F.zero, F.zero, F.zero, F.zero, F.zero,
      F.zero, true⟩) ∧
  (∀ j : Fin nlfo, s.lfo[j] =
    ⟨F.zero, F.asF 0x3F800000#32, F.asF 0x3F800000#32, .sine, F.asF 0x42F00000#32,
      F.asF 0x3F800000#32, F.zero, F.zero, F.zero, 0#32, F.zero, false, true⟩) ∧
  s.fx.pend = #v[F.asF 0x3F800000#32, F.zero, F.asF 0x3E800000#32, F.zero, F.zero, F.zero] ∧
  s.fx.cur = s.fx.pend ∧ s.fx.g = F.asF 0x3F800000#32 ∧
  (∀ k : Nat, s.fx.dly.get k = F.zero ∧ s.fx.ch.line.get k = F.zero ∧ s.fx.rv.line.get k = F.zero) ∧
  s.fx.dlyW = 0 ∧ s.fx.ch = ⟨Line.cleared, 0, []⟩ ∧ s.fx.rv = ⟨Line.cleared, 0, []⟩ ∧
  s.qa = [] ∧ s.qc = [] ∧
  (let unit : F → Range := fun d => ⟨F.zero, F.lit 1 1, d⟩
   let time : F → Range := fun d => ⟨F.lit 1 100, F.lit 60000 1, d⟩
   s.settings =
    { nv := 32, dlyLen := 131072
      sysFs := ⟨F.lit 8000 1, F.lit 192000 1, F.lit 48000 1⟩
      arBase := ⟨F.zero, F.lit 20000 1, F.lit 440 1⟩
      arStretch := unit F.zero, arEntropy := unit F.zero, arDetune := unit F.zero
      morphDflt := F.zero, resonanceDflt := F.zero, rfbDetune := unit F.zero
      rfbBase := ⟨F.zero, F.lit 20000 1, F.lit 440 1⟩
      modelAmpDflt := F.zero, modelOff := ⟨F.neg (F.lit 20000 1), F.lit 20000 1, F.zero⟩
      poFreq := ⟨F.zero, F.lit 1 2, F.zero⟩, phaseMod := ⟨F.neg (F.lit 1 1), F.lit 1 1, F.zero⟩
      envAttack := time (F.lit 10 1), envDecay := time (F.lit 100 1)
      envSustain := unit (F.lit 7 10), envRelease := time (F.lit 500 1)
      fbCutoff := ⟨F.lit 20 1, F.lit 20000 1, F.lit 20000 1⟩, fbResDflt := F.zero
      lfoRate := ⟨F.lit 1 100, F.lit 100 1, F.lit 1 1⟩, lfoDepth := unit (F.lit 1 1)
      lfoBpm := ⟨F.lit 20 1, F.lit 300 1, F.lit 120 1⟩, lfoDiv := ⟨F.lit 1 64, F.lit 64 1, F.lit 1 1⟩
      fxMaster := unit (F.lit 1 1), fxSat := unit F.zero
      fxDlyTime := ⟨F.lit 1 1000, F.lit 2 1, F.lit 1 4⟩, fxDlyFb := ⟨F.zero, F.lit 95 100, F.zero⟩
      fxChMix := unit F.zero, fxRvMix := unit F.zero, smoothK := F.lit 1 1000 })

/-! ## What each command does: the next state as an equation, so that the frame is whole -/

/-- SYS.RESET and SYS.PREPARE (R330, R331): the signal state of every unit of every instance, and for
SYS.PREPARE the two SYS registers and every dirty flag; nothing else. The record that stands for the kernels'
reset state, own part included, is the model's (assumption 7, DESIGN CHOICE), and the places beyond the voice slots
are written as the slots are (assumption 30). -/
def Obligations.SystemCommandsResult : Prop :=
  ∀ (blk : BitVec 16) (w : Word) (s : State),
    exec .sysReset s = .next { s with
      ar := s.ar.map fun a => { a with osc := a.osc.map fun o => { o with phase := F.zero } }
      rfb := s.rfb.map fun b => { b with filt := b.filt.map fun f => { f with z1 := F.zero, z2 := F.zero } }
      env := s.env.map fun p => p.map fun n => { n with st := .idle, level := F.zero }
      fb := s.fb.map fun b => { b with z1 := F.zero, z2 := F.zero }
      lfo := s.lfo.map fun l => { l with phase := F.zero, shPrev := F.zero, shNext := F.zero, last := F.zero }
      fx := { s.fx with g := s.fx.cur[0], dly := Line.cleared, dlyW := 0
                        ch := ⟨Line.cleared, 0, []⟩, rv := ⟨Line.cleared, 0, []⟩ } } ∧
    exec (.sysPrepare blk w) s = .next { s with
      sys := ⟨clampv (F.asF w) s.settings.sysFs, blk⟩
      ar := s.ar.map fun a =>
        { a with osc := a.osc.map (fun o => { o with phase := F.zero }), dirty := true }
      rfb := s.rfb.map fun b =>
        { b with filt := b.filt.map (fun f => { f with z1 := F.zero, z2 := F.zero }), dirty := true }
      env := s.env.map fun p => p.map fun n => { n with st := .idle, level := F.zero, dirty := true }
      fb := s.fb.map fun b => { b with z1 := F.zero, z2 := F.zero, dirty := true }
      lfo := s.lfo.map fun l => { l with phase := F.zero, shPrev := F.zero, shNext := F.zero,
                                         last := F.zero, dirty := true }
      fx := { s.fx with g := s.fx.cur[0], dly := Line.cleared, dlyW := 0
                        ch := ⟨Line.cleared, 0, []⟩, rv := ⟨Line.cleared, 0, []⟩ } }

/-- AR.RESET, AR.SET_BASE, AR.SET_STRETCH, AR.SET_ENTROPY, AR.SET_DETUNE, AR.SEED (R160, R162 to R166): the
phases, or one register and, but for entropy and the seed, the dirty flag; nothing else. -/
def Obligations.AdditiveSettersResult : Prop :=
  ∀ (v : Voice) (w : Word) (s : State),
    exec (.arReset v) s = .next { s with
      ar := s.ar.set v { s.ar[v] with osc := s.ar[v].osc.map fun o => { o with phase := F.zero } } } ∧
    exec (.arSetBase v w) s = .next { s with
      ar := s.ar.set v { s.ar[v] with
        base := clampv (F.asF w) s.settings.arBase, dirty := true } } ∧
    exec (.arSetStretch v w) s = .next { s with
      ar := s.ar.set v { s.ar[v] with
        stretch := clampv (F.asF w) s.settings.arStretch, dirty := true } } ∧
    exec (.arSetEntropy v w) s = .next { s with
      ar := s.ar.set v { s.ar[v] with entropy := clampv (F.asF w) s.settings.arEntropy } } ∧
    exec (.arSetDetune v w) s = .next { s with
      ar := s.ar.set v { s.ar[v] with
        detune := clampv (F.asF w) s.settings.arDetune, dirty := true } } ∧
    exec (.arSeed v w) s = .next { s with ar := s.ar.set v { s.ar[v] with rng := w } }

/-- AR.LOAD_MODEL and RFB.LOAD_MODEL (R161, R201) with their 128 operands: all 129 fields of one model of
one store, each entry validated, and the dirty flag of that unit; nothing else. A term without 128 operands is
no command (R100) and is refused by name: the model's own refusal, which no step reaches. -/
def Obligations.LoadModelWritesOneWholeModel : Prop :=
  ∀ (v : Voice) (k : SlotIdx) (ops : List Word) (s : State),
    let m : ModelState :=
      ⟨Vector.ofFn fun j => clampv (F.asF (ops.getD j.val 0#32))
         ⟨F.zero, F.lit 1 1, s.settings.modelAmpDflt⟩,
       Vector.ofFn fun j => clampv (F.asF (ops.getD (64 + j.val) 0#32)) s.settings.modelOff, true⟩
    (ops.length = 128 →
      exec (.arLoadModel v k ops) s = .next { s with
        ar := s.ar.set v { s.ar[v] with model := s.ar[v].model.set k m, dirty := true } } ∧
      exec (.rfbLoadModel v k ops) s = .next { s with
        rfb := s.rfb.set v { s.rfb[v] with model := s.rfb[v].model.set k m, dirty := true } }) ∧
    (ops.length ≠ 128 →
      exec (.arLoadModel v k ops) s = .refused .operandCount ∧
      exec (.rfbLoadModel v k ops) s = .refused .operandCount)

/-- AR.UPDATE (R152, R154 to R157, R167): partial by partial the frequency, the guard, the amplitude and the
unison twin, then the normalisation over the unmuted amplitudes in index order; phases, parameters, models
and generator kept, the flag cleared, and nothing outside the slot's resonator changed. A frequency of `+inf` and
a positive sum of at most 2^-128 take the model's choice (assumptions 23 and 24, DESIGN CHOICE). -/
def Obligations.AdditiveUpdateResult : Prop :=
  ∀ (v : Voice) (wx wy : Word) (s : State),
    let a := s.ar[v]
    let mx := clampv (F.asF wx) ⟨F.zero, F.lit 1 1, s.settings.morphDflt⟩
    let my := clampv (F.asF wy) ⟨F.zero, F.lit 1 1, s.settings.morphDflt⟩
    let mix : F → F → F → F := fun p q t => F.add p (F.mul t (F.sub q p))
    let entry : (ModelState → Vector F np) → Fin nslot → Fin np → F := fun key j k =>
      if a.model[j].valid then (key a.model[j])[k] else F.zero
    let blend : (ModelState → Vector F np) → Fin np → F := fun key k =>
      mix (mix (entry key 0 k) (entry key 1 k) mx) (mix (entry key 2 k) (entry key 3 k) mx) my
    let lim := F.mul (F.lit 45 100) s.sys.fs
    let fr : Fin np → F := fun k => F.add
      (F.mul a.base (fpow params (F.ofNat (k.val + 1)) (F.add (F.lit 1 1) (F.mul a.stretch (F.lit 1 2)))))
      (blend (·.off) k)
    let am : Fin np → F := fun k => blend (·.amp) k
    let muted : Fin np → Bool := fun k => F.gt (fr k) lim
    let fu : Fin np → F := fun k => F.mul (fr k) (F.add (F.lit 1 1) a.detune)
    let twinMuted : Fin np → Bool := fun k => muted k || F.feq a.detune F.zero || F.gt (fu k) lim
    let sum := (List.finRange np).foldl
      (fun acc k => if twinMuted k then acc else F.add acc (F.mul (F.lit 707 1000) (am k)))
      ((List.finRange np).foldl (fun acc k => if muted k then acc else F.add acc (am k)) F.zero)
    ∃ b : ArState, exec (.arUpdate v wx wy) s = .next { s with ar := s.ar.set v b } ∧
      b.model = a.model ∧ b.base = a.base ∧ b.stretch = a.stretch ∧ b.entropy = a.entropy ∧
      b.detune = a.detune ∧ b.rng = a.rng ∧ b.dirty = false ∧
      (∀ i : Fin nosc, b.osc[i].phase = a.osc[i].phase ∧ b.osc[i].inc = F.div b.osc[i].freq s.sys.fs) ∧
      (∀ k : Fin np,
        b.osc[primaryOf k].freq = (if muted k then F.zero else fr k) ∧
        b.amp[primaryOf k] = (if muted k then F.zero else am k) ∧
        b.osc[twinOf k].freq = (if twinMuted k then F.zero else fu k) ∧
        b.amp[twinOf k] = (if twinMuted k then F.zero else F.mul (F.lit 707 1000) (am k))) ∧
      b.norm = (if F.gt sum F.zero then F.div (F.lit 1 1) sum else F.zero)

/-- AR.PROCESS (R134, R153, R158, R168): the normalised weighted sum of the sines of the 128 phases before
their advance, in index order. With entropy at 0 no draw is made; with entropy above 0 the weight of
oscillator `i` is multiplied by one plus entropy times the draw after the `i + 1`-th advance of the
generator, which 128 advances leave in the register. Every phase advances by its increment and nothing else
changes. -/
def Obligations.AdditiveProcessResult : Prop :=
  ∀ (v : Voice) (s : State),
    let a := s.ar[v]
    let osc := a.osc.map fun o => { o with phase := F.wrap01 (F.add o.phase o.inc) }
    let sample : OscIdx → F := fun i =>
      fsin params (F.mul (F.asF 0x40C90FDB#32) (F.wrap01 (F.add a.osc[i].phase F.zero)))
    let weight : OscIdx → F := fun i => F.mul a.amp[i] a.norm
    let jitter : OscIdx → F := fun i =>
      F.add (F.lit 1 1) (F.mul a.entropy (rngBipolar params ((rngNext)^[i.val + 1] a.rng)))
    (F.gt a.entropy F.zero = false →
      ∃ t : State, exec (.arProcess v) s = .next t ∧
        Returned { s with ar := s.ar.set v { a with osc := osc } } t
          ((List.finRange nosc).foldl (fun acc i => F.add acc (F.mul (sample i) (weight i))) F.zero)) ∧
    (F.gt a.entropy F.zero = true →
      ∃ t : State, exec (.arProcess v) s = .next t ∧
        Returned { s with ar := s.ar.set v { a with osc := osc, rng := (rngNext)^[128] a.rng } } t
          ((List.finRange nosc).foldl
            (fun acc i => F.add acc (F.mul (sample i) (F.mul (weight i) (jitter i)))) F.zero))

/-- PO.SET_FREQ, PO.RESET and PO.STEP (R132 to R137): one oscillator of one slot, and for PO.STEP the sine
of the phase before the advance, with the validated phase modulation added. -/
def Obligations.OscillatorCommandsResult : Prop :=
  ∀ (v : Voice) (i : OscIdx) (w : Word) (s : State),
    let o := s.ar[v].osc[i]
    let put : OscState → State := fun o' => { s with
      ar := s.ar.set v { s.ar[v] with osc := s.ar[v].osc.set i o' } }
    let f := clampv (F.asF w)
      ⟨s.settings.poFreq.lo, F.mul s.settings.poFreq.hi s.sys.fs, s.settings.poFreq.dflt⟩
    let pm := clampv (F.asF w) s.settings.phaseMod
    exec (.poSetFreq v i w) s = .next (put { o with freq := f, inc := F.div f s.sys.fs }) ∧
    exec (.poReset v i) s = .next (put { o with phase := F.zero }) ∧
    ∃ t : State, exec (.poStep v i w) s = .next t ∧
      Returned (put { o with phase := F.wrap01 (F.add o.phase o.inc) }) t
        (fsin params (F.mul (F.asF 0x40C90FDB#32) (F.wrap01 (F.add o.phase pm))))

/-- An oscillator stays in bounds (R138): from a phase in `[0, 1)` and a finite increment PO.STEP leaves a
phase in `[0, 1)` and the same increment, and, at settings a machine may have, which no step leaves, returns a
value in `[-1, 1]`; AR.PROCESS likewise keeps every phase of the slot whose increment is finite in `[0, 1)`. -/
def Obligations.OscillatorsStayInBounds : Prop :=
  (∀ (v : Voice) (i : OscIdx) (w : Word) (s : State),
    inPhase s.ar[v].osc[i].phase = true →
    s.ar[v].osc[i].inc.isFinite = true →
    ∃ (t : State) (y : Word), exec (.poStep v i w) s = .next t ∧
      t.results s.port = s.results s.port ++ [y] ∧
      (SettingsOk s.settings →
        F.le (F.neg (F.lit 1 1)) (F.asF y) = true ∧ F.le (F.asF y) (F.lit 1 1) = true) ∧
      inPhase t.ar[v].osc[i].phase = true ∧ t.ar[v].osc[i].inc = s.ar[v].osc[i].inc) ∧
  ∀ (v : Voice) (s : State),
    ∃ t : State, exec (.arProcess v) s = .next t ∧
      ∀ i : OscIdx, inPhase s.ar[v].osc[i].phase = true → s.ar[v].osc[i].inc.isFinite = true →
        inPhase t.ar[v].osc[i].phase = true ∧ t.ar[v].osc[i].inc = s.ar[v].osc[i].inc

/-- The six getters and what they return (R169, R207, R238, R239, R290, R317): one word on the issuing
port's queue, and nothing else changes (R89, R392). -/
def Obligations.GettersReturnAndChangeNothing : Prop :=
  ∀ (v : Voice) (i : OscIdx) (e : EnvSel) (j : LfoSel) (p : FxIdx) (s : State),
    (∃ t, exec (.arGetAmp v i) s = .next t ∧ Returned s t (F.mul s.ar[v].amp[i] s.ar[v].norm)) ∧
    (∃ t, exec (.rfbGetAmp v i) s = .next t ∧ Returned s t s.rfb[v].filt[i].amp) ∧
    (∃ t, exec (.envGetLevel v e) s = .next t ∧ Returned s t s.env[v][e].level) ∧
    (∃ t, exec (.envGetState v e) s = .next t ∧ t.nanDraws = s.nanDraws ∧
      AppendedWord s t (stageCode s.env[v][e].st)) ∧
    (∃ t, exec (.lfoGetValue j) s = .next t ∧ Returned s t s.lfo[j].last) ∧
    ∃ t, exec (.fxGetParam p) s = .next t ∧ Returned s t s.fx.cur[p]

/-- The envelope stage codes ENV.GET_STATE returns (R109): 0 Idle, 1 Attack, 2 Decay, 3 Sustain,
4 Release. -/
def Obligations.StageCodesAreReturned : Prop :=
  ∀ (v : Voice) (e : EnvSel) (s : State),
    let code : Word := match s.env[v][e].st with
      | .idle => 0#32
      | .attack => 1#32
      | .decay => 2#32
      | .sustain => 3#32
      | .release => 4#32
    exec (.envGetState v e) s = .next { s with
      qa := if s.port = .aud then s.qa ++ [code] else s.qa
      qc := if s.port = .ctl then s.qc ++ [code] else s.qc }

/-- RFB.RESET and RFB.SET_BASE (R200, R202): the filter memories; the base and the flag. -/
def Obligations.ResonatorSettersResult : Prop :=
  ∀ (v : Voice) (w : Word) (s : State),
    exec (.rfbReset v) s = .next { s with
      rfb := s.rfb.set v { s.rfb[v] with
        filt := s.rfb[v].filt.map fun f => { f with z1 := F.zero, z2 := F.zero } } } ∧
    exec (.rfbSetBase v w) s = .next { s with
      rfb := s.rfb.set v { s.rfb[v] with
        base := clampv (F.asF w) s.settings.rfbBase, dirty := true } }

/-- The quality factors (R192, R252): the square first, then the product, then the sum, with the exact values
the rules print. -/
def Obligations.QualityFactorsAreQuadratic : Prop :=
  (∀ res : F, rfbQ res = F.add (F.lit 1 1) (F.mul (F.mul res res) (F.lit 199 1))) ∧
  toRat (rfbQ F.zero) = 1 ∧ toRat (rfbQ (F.lit 1 2)) = 203 / 4 ∧ toRat (rfbQ (F.lit 1 1)) = 200 ∧
  (∀ res : F, fbQ res = F.add (F.lit 1 2) (F.mul (F.mul res res) (F.lit 145 10))) ∧
  toRat (fbQ F.zero) = 1 / 2 ∧ toRat (fbQ (F.lit 1 4)) = 45 / 32 ∧ toRat (fbQ (F.lit 1 2)) = 33 / 8 ∧
  toRat (fbQ (F.lit 1 1)) = 15

/-- RFB.UPDATE (R192 to R196, R203): nothing at all when clean with equal operands; else every filter
retuned at its partial's frequency or its twin's, or zeroed outside the guards, its memories kept, the
operands cached and the flag cleared. An infinite frequency, and an operand of `-0.0` against a cached `+0.0`,
take the model's choice (assumptions 26 and 27, DESIGN CHOICE). -/
def Obligations.ResonatorUpdateResult : Prop :=
  ∀ (v : Voice) (wx wy wr wd : Word) (s : State),
    let b := s.rfb[v]
    let fs := s.sys.fs
    let mx := clampv (F.asF wx) ⟨F.zero, F.lit 1 1, s.settings.morphDflt⟩
    let my := clampv (F.asF wy) ⟨F.zero, F.lit 1 1, s.settings.morphDflt⟩
    let res := clampv (F.asF wr) ⟨F.zero, F.lit 1 1, s.settings.resonanceDflt⟩
    let det := clampv (F.asF wd) s.settings.rfbDetune
    let same := !b.dirty && F.feq mx b.lastMx && F.feq my b.lastMy && F.feq res b.lastRes &&
      F.feq det b.lastDet
    let tune : FiltState → F → F → FiltState := fun f fr a =>
      if F.lt fr (F.lit 10 1) || F.gt fr (F.mul (F.lit 48 100) fs) then
        ⟨F.zero, F.zero, F.zero, F.zero, F.zero, f.z1, f.z2⟩
      else
        let q := F.add (F.lit 1 1) (F.mul (F.mul res res) (F.lit 199 1))
        let w := F.div (F.mul (F.asF 0x40C90FDB#32) fr) fs
        let alpha := F.div (fsin params w) (F.mul (F.lit 2 1) q)
        let a0 := F.add (F.lit 1 1) alpha
        ⟨F.div alpha a0, F.div (F.neg alpha) a0, F.div (F.mul (F.neg (F.lit 2 1)) (fcos params w)) a0,
          F.div (F.sub (F.lit 1 1) alpha) a0, a, f.z1, f.z2⟩
    let mix : F → F → F → F := fun p q t => F.add p (F.mul t (F.sub q p))
    let entry : (ModelState → Vector F np) → Fin nslot → Fin np → F := fun key j k =>
      if b.model[j].valid then (key b.model[j])[k] else F.zero
    let blend : (ModelState → Vector F np) → Fin np → F := fun key k =>
      mix (mix (entry key 0 k) (entry key 1 k) mx) (mix (entry key 2 k) (entry key 3 k) mx) my
    let fr : Fin np → F := fun k => F.add (F.mul b.base (F.ofNat (k.val + 1))) (blend (·.off) k)
    let am : Fin np → F := fun k => blend (·.amp) k
    (same = true → exec (.rfbUpdate v wx wy wr wd) s = .next s) ∧
    (same = false → ∃ c : RfbState,
      exec (.rfbUpdate v wx wy wr wd) s = .next { s with rfb := s.rfb.set v c } ∧
      c.model = b.model ∧ c.base = b.base ∧ c.lastMx = mx ∧ c.lastMy = my ∧ c.lastRes = res ∧
      c.lastDet = det ∧ c.dirty = false ∧
      ∀ k : Fin np,
        c.filt[primaryOf k] = tune b.filt[primaryOf k] (fr k) (am k) ∧
        c.filt[twinOf k] =
          if F.fne det F.zero then
            tune b.filt[twinOf k] (F.mul (fr k) (F.add (F.lit 1 1) det)) (F.mul (F.lit 707 1000) (am k))
          else tune b.filt[twinOf k] F.zero F.zero)

/-- RFB.PROCESS (R197, R198, R206): every filter takes one transposed step on the raw excitation, and the
result adds the weighted outputs lane by lane over the 32 groups, then the lanes in pairs. -/
def Obligations.ResonatorProcessResult : Prop :=
  ∀ (v : Voice) (w : Word) (s : State),
    let b := s.rfb[v]
    let x := F.asF w
    let out : FiltState → F := fun f => F.add (F.mul f.b0 x) f.z1
    let lane : Fin lanes → F := fun l => (List.finRange 32).foldl
      (fun acc g => F.add acc (F.mul b.filt[laneIndex g l].amp (out b.filt[laneIndex g l]))) F.zero
    ∃ t : State, exec (.rfbProcess v w) s = .next t ∧
      Returned
        { s with rfb := s.rfb.set v { b with filt := b.filt.map fun f => { f with
            z1 := F.sub f.z2 (F.mul f.a1 (out f))
            z2 := F.sub (F.mul f.b2 x) (F.mul f.a2 (out f)) } } }
        t (F.add (F.add (lane 0) (lane 1)) (F.add (lane 2) (lane 3)))

/-- ENV.RESET, the four ENV setters, ENV.NOTE_ON and ENV.NOTE_OFF (R225 to R231): the stage and level, one
parameter and the flag, or the stage alone; a note-off in Idle does nothing. -/
def Obligations.EnvelopeSettersResult : Prop :=
  ∀ (v : Voice) (e : EnvSel) (w : Word) (s : State),
    let n := s.env[v][e]
    let put : EnvState → State := fun n' => { s with env := s.env.set v (s.env[v].set e n') }
    exec (.envReset v e) s = .next (put { n with st := .idle, level := F.zero }) ∧
    exec (.envSetAttack v e w) s = .next (put { n with
      attMs := clampv (F.asF w) s.settings.envAttack, dirty := true }) ∧
    exec (.envSetDecay v e w) s = .next (put { n with
      decMs := clampv (F.asF w) s.settings.envDecay, dirty := true }) ∧
    exec (.envSetSustain v e w) s = .next (put { n with
      sus := clampv (F.asF w) s.settings.envSustain, dirty := true }) ∧
    exec (.envSetRelease v e w) s = .next (put { n with
      relMs := clampv (F.asF w) s.settings.envRelease, dirty := true }) ∧
    exec (.envNoteOn v e) s = .next (put { n with st := .attack }) ∧
    exec (.envNoteOff v e) s = .next (if n.st = .idle then s else put { n with st := .release })

/-- ENV.PROCESS (R222 to R224, R232): the three multipliers recomputed when dirty, then one stage step, and
the level after it returned; nothing else of the state changes. -/
def Obligations.EnvelopeProcessResult : Prop :=
  ∀ (v : Voice) (e : EnvSel) (s : State),
    let n := s.env[v][e]
    let mult : F → F := fun t =>
      fexp params (F.neg (F.div (F.lit 1 1) (F.mul (F.mul t (F.lit 1 1000)) s.sys.fs)))
    let mA := if n.dirty then mult n.attMs else n.mA
    let mD := if n.dirty then mult n.decMs else n.mD
    let mR := if n.dirty then mult n.relMs else n.mR
    let segment : F → F → F := fun target m => F.add target (F.mul m (F.sub n.level target))
    let up := segment (F.asF 0x3F8CCCCD#32) mA
    let down := segment n.sus mD
    let out := segment F.zero mR
    let eps := F.asF 0x38D1B717#32
    let next : Stage × F := match n.st with
      | .idle => (.idle, F.zero)
      | .attack => if F.ge up (F.lit 1 1) then (.decay, F.lit 1 1) else (.attack, up)
      | .decay =>
        if F.le (F.sub down n.sus) eps || F.feq down n.level then (.sustain, n.sus) else (.decay, down)
      | .sustain => (.sustain, n.sus)
      | .release => if F.lt out eps then (.idle, F.zero) else (.release, out)
    ∃ t : State, exec (.envProcess v e) s = .next t ∧
      Returned
        { s with env := s.env.set v (s.env[v].set e { n with
            st := next.1, level := next.2, mA := mA, mD := mD, mR := mR, dirty := false }) }
        t next.2

/-- Monotonicity (R234): from a level in `[0, 1]` and multipliers in `[0, 1)`, an Attack step never lowers
the level and leaves Attack only at exactly 1.0, and a Release step never raises it and leaves Release
only at exactly 0.0. -/
def Obligations.EnvelopeSegmentsAreMonotone : Prop :=
  ∀ (v : Voice) (e : EnvSel) (s t : State), SettingsOk s.settings →
    inRange s.settings .sysFs s.sys.fs = true → s.env[v][e].InRange s.settings →
    s.env[v][e].Bounded → exec (.envProcess v e) s = .next t →
    (s.env[v][e].st = .attack →
      F.le s.env[v][e].level t.env[v][e].level = true ∧
      (t.env[v][e].st = .attack ∨ (t.env[v][e].st = .decay ∧ t.env[v][e].level = F.lit 1 1))) ∧
    (s.env[v][e].st = .release →
      F.le t.env[v][e].level s.env[v][e].level = true ∧
      (t.env[v][e].st = .release ∨ (t.env[v][e].st = .idle ∧ t.env[v][e].level = F.zero)))

/-- The stage graph (R237): every command leaves every envelope in its stage, but for the transitions the
rule lists, each by the command it names and only on the envelope that command addresses. -/
def Obligations.StageGraphIsTheListedOne : Prop :=
  ∀ (i : Instr) (s t : State) (v : Voice) (e : EnvSel), exec i s = .next t →
    t.env[v][e].st = s.env[v][e].st ∨
    (i = .envNoteOn v e ∧ t.env[v][e].st = .attack) ∨
    (i = .envNoteOff v e ∧ s.env[v][e].st ≠ .idle ∧ t.env[v][e].st = .release) ∨
    (i = .envProcess v e ∧
      ((s.env[v][e].st = .attack ∧ t.env[v][e].st = .decay) ∨
       (s.env[v][e].st = .decay ∧ t.env[v][e].st = .sustain) ∨
       (s.env[v][e].st = .release ∧ t.env[v][e].st = .idle))) ∨
    ((i = .envReset v e ∨ i = .sysReset ∨ ∃ blk fs, i = .sysPrepare blk fs) ∧ t.env[v][e].st = .idle)

/-- FB.RESET and the three FB setters (R255 to R258): the memories; one parameter and the flag. -/
def Obligations.BiquadSettersResult : Prop :=
  ∀ (v : Voice) (w : Word) (m : BitVec 16) (s : State),
    let put : FbState → State := fun b => { s with fb := s.fb.set v b }
    exec (.fbReset v) s = .next (put { s.fb[v] with z1 := F.zero, z2 := F.zero }) ∧
    exec (.fbSetCutoff v w) s = .next (put { s.fb[v] with
      cutoff := clampv (F.asF w) s.settings.fbCutoff, dirty := true }) ∧
    exec (.fbSetRes v w) s = .next (put { s.fb[v] with
      res := clampv (F.asF w) ⟨F.zero, F.lit 1 1, s.settings.fbResDflt⟩, dirty := true }) ∧
    exec (.fbSetMode v m) s = .next (put { s.fb[v] with
      mode := (if m = 1#16 then .highPass else if m = 2#16 then .bandPass else if m = 3#16 then .notch
        else .lowPass), dirty := true })

/-- FB.PROCESS (R252 to R254, R259 to R261): the coefficients of the mode recomputed when dirty, the memories
untouched by that, then one transposed step on the raw input; nothing else of the state changes. -/
def Obligations.BiquadProcessResult : Prop :=
  ∀ (v : Voice) (wx : Word) (s : State),
    let b := s.fb[v]
    let fs := s.sys.fs
    let x := F.asF wx
    let lim := F.mul (F.lit 45 100) fs
    let fc := if F.gt b.cutoff lim then lim else b.cutoff
    let q := F.add (F.lit 1 2) (F.mul (F.mul b.res b.res) (F.lit 145 10))
    let w := F.div (F.mul (F.asF 0x40C90FDB#32) fc) fs
    let c := fcos params w
    let alpha := F.div (fsin params w) (F.mul (F.lit 2 1) q)
    let a0 := F.add (F.lit 1 1) alpha
    let n0 := match b.mode with
      | .lowPass => F.div (F.sub (F.lit 1 1) c) (F.lit 2 1)
      | .highPass => F.div (F.add (F.lit 1 1) c) (F.lit 2 1)
      | .bandPass => alpha
      | .notch => F.lit 1 1
    let n1 := match b.mode with
      | .lowPass => F.sub (F.lit 1 1) c
      | .highPass => F.neg (F.add (F.lit 1 1) c)
      | .bandPass => F.zero
      | .notch => F.mul (F.neg (F.lit 2 1)) c
    let n2 := match b.mode with
      | .lowPass => F.div (F.sub (F.lit 1 1) c) (F.lit 2 1)
      | .highPass => F.div (F.add (F.lit 1 1) c) (F.lit 2 1)
      | .bandPass => F.neg alpha
      | .notch => F.lit 1 1
    let r : FbState := if b.dirty then { b with
        b0 := F.div n0 a0, b1 := F.div n1 a0, b2 := F.div n2 a0
        a1 := F.div (F.mul (F.neg (F.lit 2 1)) c) a0
        a2 := F.div (F.sub (F.lit 1 1) alpha) a0
        dirty := false } else b
    let out := F.add (F.mul r.b0 x) r.z1
    ∃ t : State, exec (.fbProcess v wx) s = .next t ∧
      Returned
        { s with fb := s.fb.set v { r with
            z1 := F.sub (F.add (F.mul r.b1 x) r.z2) (F.mul r.a1 out)
            z2 := F.sub (F.mul r.b2 x) (F.mul r.a2 out) } }
        t out

/-- LFO.RESET, the six LFO setters and LFO.SEED (R275 to R282): the signal state but not the generator; or
one register and, but for depth, waveform and seed, the flag. -/
def Obligations.LfoSettersResult : Prop :=
  ∀ (j : LfoSel) (w : Word) (m : BitVec 16) (s : State),
    let l := s.lfo[j]
    let put : LfoState → State := fun l' => { s with lfo := s.lfo.set j l' }
    exec (.lfoReset j) s = .next (put { l with
      phase := F.zero, shPrev := F.zero, shNext := F.zero, last := F.zero }) ∧
    exec (.lfoSetRate j w) s = .next (put { l with
      rate := clampv (F.asF w) s.settings.lfoRate, dirty := true }) ∧
    exec (.lfoSetDepth j w) s = .next (put { l with
      depth := clampv (F.asF w) s.settings.lfoDepth }) ∧
    exec (.lfoSetWave j m) s = .next (put { l with
      wave := (if m = 1#16 then .triangle else if m = 2#16 then .sawUp else if m = 3#16 then .sawDown
        else if m = 4#16 then .square else if m = 5#16 then .sampleHold else .sine) }) ∧
    exec (.lfoSetSync j m) s = .next (put { l with sync := decide (m = 1#16), dirty := true }) ∧
    exec (.lfoSetBpm j w) s = .next (put { l with
      bpm := clampv (F.asF w) s.settings.lfoBpm, dirty := true }) ∧
    exec (.lfoSetDiv j w) s = .next (put { l with
      div := clampv (F.asF w) s.settings.lfoDiv, dirty := true }) ∧
    exec (.lfoSeed j w) s = .next (put { l with rng := w })

/-- LFO.PROCESS and LFO.PROCESS_BLOCK (R272 to R274, R283 to R285, R288, R289): the increment recomputed when
dirty, the waveform value at the phase before the advance scaled by the depth and stored, one advance that
draws only at a wrap in Sample-and-Hold, and for a block the remaining advances: one by one in
Sample-and-Hold, in one multiplication otherwise. A block of no samples only returns the last value. -/
def Obligations.LfoProcessResult : Prop :=
  ∀ (j : LfoSel) (count : BitVec 16) (s : State),
    let put : LfoState → State := fun l => { s with lfo := s.lfo.set j l }
    let rate := fun l : LfoState =>
      if l.sync then F.mul (F.div l.bpm (F.lit 60 1)) l.div else l.rate
    let l : LfoState := if s.lfo[j].dirty then
      { s.lfo[j] with inc := F.div (rate s.lfo[j]) s.sys.fs, dirty := false } else s.lfo[j]
    let p := l.phase
    let u := fun x : F => F.mul x (F.sub (F.lit 1 1) x)
    let bh := fun x : F =>
      F.div (F.mul (F.lit 16 1) (u x)) (F.sub (F.lit 5 1) (F.mul (F.lit 4 1) (u x)))
    let shape := match l.wave with
      | .sine => if F.lt p (F.lit 1 2) then bh (F.mul (F.lit 2 1) p)
        else F.neg (bh (F.sub (F.mul (F.lit 2 1) p) (F.lit 1 1)))
      | .triangle => if F.lt p (F.lit 1 4) then F.mul (F.lit 4 1) p
        else if F.lt p (F.lit 3 4) then F.sub (F.lit 2 1) (F.mul (F.lit 4 1) p)
        else F.sub (F.mul (F.lit 4 1) p) (F.lit 4 1)
      | .sawUp => F.sub (F.mul (F.lit 2 1) p) (F.lit 1 1)
      | .sawDown => F.sub (F.lit 1 1) (F.mul (F.lit 2 1) p)
      | .square => if F.lt p (F.lit 1 2) then F.lit 1 1 else F.neg (F.lit 1 1)
      | .sampleHold => F.add l.shPrev (F.mul (F.sub l.shNext l.shPrev) p)
    let value := F.mul shape l.depth
    let advance : LfoState → LfoState := fun k =>
      if F.ge (F.add k.phase k.inc) (F.lit 1 1) then
        if k.wave = .sampleHold then { k with
          phase := F.wrap01 (F.add k.phase k.inc), shPrev := k.shNext, rng := rngNext k.rng
          shNext := rngBipolar params (rngNext k.rng) }
        else { k with phase := F.wrap01 (F.add k.phase k.inc) }
      else { k with phase := F.add k.phase k.inc }
    let one := advance { l with last := value }
    let rest : LfoState := if l.wave = .sampleHold then advance^[count.toNat - 1] one
      else { one with phase := F.wrap01 (F.add one.phase (F.mul (F.ofNat (count.toNat - 1)) one.inc)) }
    (∃ t, exec (.lfoProcess j) s = .next t ∧ Returned (put one) t value) ∧
    (count ≠ 0#16 → ∃ t, exec (.lfoProcessBlock j count) s = .next t ∧ Returned (put rest) t value) ∧
    (count = 0#16 → ∃ t, exec (.lfoProcessBlock j count) s = .next t ∧ Returned s t s.lfo[j].last)

/-- A block of one sample is LFO.PROCESS (R285, R288, R289), for parameters in range and bounded signals. -/
def Obligations.LfoBlockOfOneIsProcess : Prop :=
  ∀ (j : LfoSel) (s : State), SettingsOk s.settings → inRange s.settings .sysFs s.sys.fs = true →
    s.lfo[j].InRange s.settings → s.lfo[j].Bounded s.settings →
    exec (.lfoProcessBlock j 1#16) s = exec (.lfoProcess j) s

/-- In Sample-and-Hold a block of N samples leaves the LFO exactly as N runs of LFO.PROCESS do, but for the
stored value, which is that of its first sample: no wrap is missed (R285, R289). R289 calls the two states
bit-identical; the exception for the stored value is the model's reading (assumption 21, DEDUCED), from the
rule's own lines, which store the first sample's value. -/
def Obligations.SampleHoldBlockMissesNoWrap : Prop :=
  ∀ (l : LfoState) (fs : F) (n : Nat), l.wave = .sampleHold → 0 < n →
    lfoProcessBlock params fs n l =
      { (lfoProcess params fs)^[n] l with last := lfoSample (lfoFresh fs l) }

/-- The value an LFO returns is bounded by its depth (R291): from parameters in range and bounded signals,
LFO.PROCESS returns a word whose value lies between minus the depth and the depth. -/
def Obligations.LfoOutputIsBoundedByDepth : Prop :=
  ∀ (j : LfoSel) (s : State), SettingsOk s.settings →
    s.lfo[j].InRange s.settings → s.lfo[j].Bounded s.settings →
    ∃ (t : State) (y : Word), exec (.lfoProcess j) s = .next t ∧
      t.results s.port = s.results s.port ++ [y] ∧
      F.le (F.neg s.lfo[j].depth) (F.asF y) = true ∧ F.le (F.asF y) s.lfo[j].depth = true

/-- FX.RESET, FX.SET, FX.LATCH and FX.MOD_ADD (R312 to R315): the lines and the gain; one pending register; all
six latched at once; one latched register moved by a finite delta inside its row of R302, or left alone. The
record FX.RESET leaves for the kernels' reset state is the model's (assumption 7, DESIGN CHOICE). -/
def Obligations.EffectSettersResult : Prop :=
  ∀ (p : FxIdx) (w : Word) (s : State),
    let row : Range := match p with
      | 0 => s.settings.fxMaster
      | 1 => s.settings.fxSat
      | 2 => s.settings.fxDlyTime
      | 3 => s.settings.fxDlyFb
      | 4 => s.settings.fxChMix
      | 5 => s.settings.fxRvMix
    exec .fxReset s = .next { s with fx := { s.fx with
      g := s.fx.cur[0], dly := Line.cleared, dlyW := 0
      ch := ⟨Line.cleared, 0, []⟩, rv := ⟨Line.cleared, 0, []⟩ } } ∧
    exec (.fxSet p w) s = .next { s with fx := { s.fx with
      pend := s.fx.pend.set p (clampv (F.asF w) row) } } ∧
    exec .fxLatch s = .next { s with fx := { s.fx with cur := s.fx.pend } } ∧
    ((F.asF w).isFinite = false → exec (.fxModAdd p w) s = .next s) ∧
    ((F.asF w).isFinite = true → exec (.fxModAdd p w) s = .next { s with fx := { s.fx with
      cur := s.fx.cur.set p (clampv (F.add s.fx.cur[p] (F.asF w)) ⟨row.lo, row.hi, s.fx.cur[p]⟩) } })

/-- FX.PROCESS (R305 to R310, R316): saturation, chorus, delay, reverb, smoothed gain, in that order, each with
its latched parameter; the delay reads before it writes, `D` is limited to `1 .. DLY_LEN - 1`, and
nothing outside FX changes. In states whose parameters are out of range `D` is the model's own (assumption 13,
DEDUCED), and the shape of a kernel's state is the model's everywhere (assumption 7, DESIGN CHOICE). -/
def Obligations.EffectProcessResult : Prop :=
  ∀ (w : Word) (s : State),
    let x := s.fx
    let s1 := satFn params (F.asF w) x.cur[1]
    let chorus := chorusKernel params x.ch s1 x.cur[4]
    let s2 := chorus.2
    let d := F.add (F.mul x.cur[2] s.sys.fs) (F.lit 1 2)
    let size := s.settings.dlyLen
    let len := max 1 (min (F.floorNat (size - 1) d) (size - 1))
    let tap := x.dly.get ((x.dlyW + (size - len % size)) % size)
    let s3 := F.add s2 (F.mul x.cur[3] tap)
    let reverb := reverbKernel params x.rv s3 x.cur[5]
    let g := F.add x.g (F.mul s.settings.smoothK (F.sub x.cur[0] x.g))
    ∃ t : State, exec (.fxProcess w) s = .next t ∧
      Returned
        { s with fx := { x with
            g := g, ch := chorus.1
            dly := x.dly.set x.dlyW s3, dlyW := (x.dlyW + 1) % size
            rv := reverb.1 } }
        t (F.mul reverb.2 g)

/-- A sample written to the delay line is the one the tap reads `D` steps later (R308): a step writes one element
and moves the index by one round the line, and after any `D - 1` further samples the tap at `D` reads the first
sample, so that a delay of `D` adds the feedback times it, whatever the length DLY_LEN of the line. The line is in
the model's canonical form (assumption 14). -/
def Obligations.DelayLineReturnsWhatWasWritten : Prop :=
  ∀ (T : Settings) (x : FxState) (y : F), x.dly.wf T.dlyLen = true → x.dlyW < T.dlyLen →
    (delayStep T x y).dly.get x.dlyW = y ∧
    (∀ k : Nat, k ≠ x.dlyW → (delayStep T x y).dly.get k = x.dly.get k) ∧
    (delayStep T x y).dlyW = (x.dlyW + 1) % T.dlyLen ∧
    ∀ ys : List F, ys.length + 1 < T.dlyLen →
      let z := ys.foldl (delayStep T) (delayStep T x y)
      z.dly.get (tapIndex T.dlyLen z.dlyW (ys.length + 1)) = y ∧
      ∀ fs s2 time fb : F, delayLength T fs time = ys.length + 1 →
        delayOut T fs z s2 time fb = F.add s2 (F.mul fb y)

/-- Transparency at defaults (R318): with the default latched parameters, unit gain and finite lines, any
finite sample comes back in value, and the parameters and the gain stay as they are. Which zero comes back for a
zero is not stated (assumption 28). -/
def Obligations.EffectsAreTransparentAtDefaults : Prop :=
  ∀ (w : Word) (s : State),
    s.fx.cur = #v[F.lit 1 1, F.zero, F.lit 1 4, F.zero, F.zero, F.zero] → s.fx.g = F.lit 1 1 →
    s.settings.smoothK.isFinite = true → s.fx.LinesFinite → (F.asF w).isFinite = true →
    ∃ (t : State) (y : Word), exec (.fxProcess w) s = .next t ∧
      t.results s.port = s.results s.port ++ [y] ∧ F.feq (F.asF y) (F.asF w) = true ∧
      t.fx.cur = s.fx.cur ∧ t.fx.g = F.lit 1 1

/-- Finite input keeps the chain finite, and a non-finite one does not get lost in it. At parameters in range, with
a gain in `[0, 1]`: a finite sample on finite lines leaves finite lines and gives a finite result (R319, R386),
unless the delay's own sum `s2 + fb * tap` overflows binary32, which R319 does not mention (assumption 21); a
non-finite sample gives a non-finite result and lodges in all three lines but not in the gain (R384, R386). The
kernels' share is D41's (assumption 8) and the model's reading of R384 (assumption 29, DEDUCED). -/
def Obligations.EffectsCarryFiniteness : Prop :=
  ∀ (w : Word) (s : State), SettingsOk s.settings → s.fx.InRange s.settings → inUnit s.fx.g = true →
    (s.fx.LinesFinite → (F.asF w).isFinite = true →
      let s2 := (chorusKernel params s.fx.ch (satFn params (F.asF w) s.fx.cur[1]) s.fx.cur[4]).2
      s2.isFinite = true ∧
      ((delayOut s.settings s.sys.fs s.fx s2 s.fx.cur[2] s.fx.cur[3]).isFinite = true →
        ∃ (t : State) (y : Word), exec (.fxProcess w) s = .next t ∧
          t.results s.port = s.results s.port ++ [y] ∧ (F.asF y).isFinite = true ∧
          t.fx.LinesFinite ∧ inUnit t.fx.g = true)) ∧
    ((F.asF w).isFinite = false →
      ∃ (t : State) (y : Word), exec (.fxProcess w) s = .next t ∧
        t.results s.port = s.results s.port ++ [y] ∧ (F.asF y).isFinite = false ∧
        lineFinite t.fx.ch.line = false ∧ lineFinite t.fx.dly = false ∧ lineFinite t.fx.rv.line = false ∧
        inUnit t.fx.g = true)

/-! ## Every command -/

/-- Every well-formed command runs to completion from every state, and no step faults (R380, R387). -/
def Obligations.EveryCommandCompletes : Prop :=
  (∀ (i : Instr) (s : State), i.WellFormed s.settings.nv → ∃ t, exec i s = .next t) ∧
  ∀ (s : State) (f : Fault), step s ≠ .fault f

/-- The result rule (R88): a command the table marks as returning appends exactly one word to the queue of
the port it was issued on, any other command none, and the other port's queue is never touched. Nor does
`exec` touch the model's own channels, order, turn and port (assumptions 1 to 3), which only a step moves, or the
settings (assumption 9), which nothing moves. -/
def Obligations.OneWordPerReturningCommand : Prop :=
  ∀ (i : Instr) (s t : State), exec i s = .next t →
    (i.op ∈ ([.arProcess, .arGetAmp, .poStep, .rfbProcess, .rfbGetAmp, .envProcess, .envGetLevel,
        .envGetState, .fbProcess, .lfoProcess, .lfoProcessBlock, .lfoGetValue, .fxProcess,
        .fxGetParam] : List Op) →
      ∃ w, t.results s.port = s.results s.port ++ [w]) ∧
    (i.returnsWord = false → t.results s.port = s.results s.port) ∧
    t.results (otherPort s.port) = s.results (otherPort s.port) ∧
    (i.returnsWord = true ↔ i.op ∈ ([.arProcess, .arGetAmp, .poStep, .rfbProcess, .rfbGetAmp, .envProcess,
        .envGetLevel, .envGetState, .fbProcess, .lfoProcess, .lfoProcessBlock, .lfoGetValue, .fxProcess,
        .fxGetParam] : List Op)) ∧
    t.cmdA = s.cmdA ∧ t.cmdC = s.cmdC ∧ t.order = s.order ∧ t.turn = s.turn ∧
    t.port = s.port ∧ t.settings = s.settings

/-- Isolation of writes (R55): a command that is not SYS.RESET or SYS.PREPARE changes no slot, LFO or effects
chain but the one it is addressed to, and the sample rate not at all. -/
def Obligations.CommandsWriteOnlyWhatTheyAddress : Prop :=
  ∀ (i : Instr) (s t : State), exec i s = .next t → i.op ≠ .sysReset → i.op ≠ .sysPrepare →
    t.sys = s.sys ∧
    (∀ v : Voice, voiceOf i ≠ some v →
      t.ar[v] = s.ar[v] ∧ t.rfb[v] = s.rfb[v] ∧ t.env[v] = s.env[v] ∧ t.fb[v] = s.fb[v]) ∧
    (∀ j : LfoSel, lfoOf i ≠ some j → t.lfo[j] = s.lfo[j]) ∧
    (voiceOf i ≠ none ∨ lfoOf i ≠ none → t.fx = s.fx)

/-- Isolation of reads (R55): two states that agree on the sample rate, on the unit a command addresses (the
slot, the LFO, or FX), on the settings, and on the port and the counter of NaN patterns, come out of it agreeing
on that unit and with the same words returned, whatever the other units hold. That equal counters give a NaN
result the same pattern is the model's (assumption 4, DESIGN CHOICE; U9 allows different ones). -/
def Obligations.CommandsReadOnlyWhatTheyAddress : Prop :=
  ∀ (i : Instr) (s1 s2 t1 t2 : State), s1.sys.fs = s2.sys.fs → s1.settings = s2.settings →
    s1.port = s2.port → s1.nanDraws = s2.nanDraws →
    exec i s1 = .next t1 → exec i s2 = .next t2 →
    let sameWords : Prop := ∃ ws : List Word, t1.results s1.port = s1.results s1.port ++ ws ∧
      t2.results s2.port = s2.results s2.port ++ ws
    (∀ v : Voice, voiceOf i = some v → s1.ar[v] = s2.ar[v] → s1.rfb[v] = s2.rfb[v] →
      s1.env[v] = s2.env[v] → s1.fb[v] = s2.fb[v] →
      t1.ar[v] = t2.ar[v] ∧ t1.rfb[v] = t2.rfb[v] ∧ t1.env[v] = t2.env[v] ∧ t1.fb[v] = t2.fb[v] ∧
      sameWords) ∧
    (∀ j : LfoSel, lfoOf i = some j → s1.lfo[j] = s2.lfo[j] → t1.lfo[j] = t2.lfo[j] ∧ sameWords) ∧
    (voiceOf i = none → lfoOf i = none → i.op ≠ .sysReset → i.op ≠ .sysPrepare → s1.fx = s2.fx →
      t1.fx = t2.fx ∧ sameWords)

/-- Who writes what: only LOAD_MODEL a model (R39), only SEED and a drawing command a generator (R54), only
SYS.PREPARE the SYS registers (R37), only FX.SET a pending effect parameter and only FX.LATCH and FX.MOD_ADD a
latched one (R51, R93). -/
def Obligations.OnlyTheNamedCommandsWrite : Prop :=
  ∀ (i : Instr) (s t : State) (v : Voice) (j : LfoSel), exec i s = .next t →
    (i.op ≠ .arLoadModel → t.ar[v].model = s.ar[v].model) ∧
    (i.op ≠ .rfbLoadModel → t.rfb[v].model = s.rfb[v].model) ∧
    (i.op ≠ .arSeed → i.op ≠ .arProcess → t.ar[v].rng = s.ar[v].rng) ∧
    (i.op ≠ .lfoSeed → i.op ≠ .lfoProcess → i.op ≠ .lfoProcessBlock → t.lfo[j].rng = s.lfo[j].rng) ∧
    (i.op ≠ .sysPrepare → t.sys = s.sys) ∧
    (i.op ≠ .fxSet → t.fx.pend = s.fx.pend) ∧
    (i.op ≠ .fxLatch → i.op ≠ .fxModAdd → t.fx.cur = s.fx.cur)

/-- Idempotence (R89): every command that returns nothing, but FX.MOD_ADD, leaves after a second issue the
state that one issue leaves. -/
def Obligations.SettersAndResetsAreIdempotent : Prop :=
  ∀ (i : Instr) (s t : State), i.returnsWord = false → i.op ≠ .fxModAdd → exec i s = .next t →
    exec i t = .next t

/-! ## Invariants every step keeps -/

/-- Every step keeps every parameter register finite and inside its range (R34, R383). -/
def Obligations.StepKeepsParametersInRange : Prop :=
  ∀ s t : State, s.ParamsInRange → step s = .next t → t.ParamsInRange

/-- Every step keeps every envelope's level in `[0, 1]` and its multipliers in `[0, 1)` (R234, R386), beside
the parameters in range. -/
def Obligations.StepKeepsEnvelopesBounded : Prop :=
  ∀ s t : State, s.ParamsInRange → s.EnvsBounded → step s = .next t → t.ParamsInRange ∧ t.EnvsBounded

/-- Every step keeps every LFO's phase in `[0, 1)`, its increment between 0 and the greatest its settings give
(0.04 at the reference settings) and its held values in `[-1, 1)` (R272, R286, R291), beside the parameters in
range. -/
def Obligations.StepKeepsLfosBounded : Prop :=
  ∀ s t : State, s.ParamsInRange → s.LfosBounded → step s = .next t → t.ParamsInRange ∧ t.LfosBounded

/-- Every step keeps the stored form, so that equal machines are equal data: the effect lines canonical and the
delay's write index inside its line (R52; the form, and a line inside a kernel's state, are the model's,
assumptions 7 and 14), and the places beyond the machine's voice slots as power-on left them, since no command
reaches them (R12, R105; assumption 30). -/
def Obligations.StepKeepsTheStoredForm : Prop :=
  ∀ s t : State, step s = .next t →
    (s.LinesCanonical → t.LinesCanonical) ∧ (s.AbsentAtPowerOn → t.AbsentAtPowerOn)

/-- Every step keeps derived registers coherent (R97, R204, R406): a filter bank, envelope, biquad or LFO whose
dirty flag is clear holds exactly what a recomputation from its parameters and cached operands would write, so a
recomputation that is skipped would have changed nothing. Of an operand that differs from its cached value in the
sign of a zero nothing is stated (assumption 27). -/
def Obligations.StepKeepsDerivedStateFresh : Prop :=
  ∀ s t : State, s.DerivedFresh → step s = .next t → t.DerivedFresh

/-- The invariants hold at power-on, at the reference settings, where no LFO increment passes 0.04, and at all
settings a machine may have (assumption 9). -/
def Obligations.ResetMeetsTheInvariants : Prop :=
  SettingsOk referenceSettings ∧ incMax referenceSettings = F.lit 4 100 ∧
  Sys2Proof.Machine.State.reset.ParamsInRange ∧ Sys2Proof.Machine.State.reset.EnvsBounded ∧
  Sys2Proof.Machine.State.reset.LfosBounded ∧ Sys2Proof.Machine.State.reset.LinesCanonical ∧
  Sys2Proof.Machine.State.reset.AbsentAtPowerOn ∧ Sys2Proof.Machine.State.reset.DerivedFresh ∧
  ∀ T : Settings, SettingsOk T →
    (State.powerOn T).ParamsInRange ∧ (State.powerOn T).EnvsBounded ∧ (State.powerOn T).LfosBounded ∧
    (State.powerOn T).LinesCanonical ∧ (State.powerOn T).AbsentAtPowerOn ∧ (State.powerOn T).DerivedFresh

end
end

