-- ==== Sys2Proof/Laws/Decode.lean ====
section
/-!
SUPPORT. The fields of a header that was put together, the command map against its inverse, and the
shape of an encoding.
-/

namespace Sys2Proof

open Config

/-! ## Header fields (R101) -/

@[simp] theorem headerCode_mkHeader (c i x : Nat) (hc : c < 2 ^ 8) : headerCode (mkHeader c i x) = c := by
  unfold headerCode mkHeader
  rw [BitVec.extractLsb'_toNat]
  simp only [BitVec.toNat_append, BitVec.toNat_ofNat]
  have hi : i % 2 ^ 8 < 2 ^ 8 := Nat.mod_lt _ (by decide)
  have hx : x % 2 ^ 16 < 2 ^ 16 := Nat.mod_lt _ (by decide)
  rw [← Nat.shiftLeft_add_eq_or_of_lt hi, ← Nat.shiftLeft_add_eq_or_of_lt hx]
  simp only [Nat.shiftLeft_eq, Nat.shiftRight_eq_div_pow]
  omega

@[simp] theorem headerInst_mkHeader (c i x : Nat) (hi : i < 2 ^ 8) : headerInst (mkHeader c i x) = i := by
  unfold headerInst mkHeader
  rw [BitVec.extractLsb'_toNat]
  simp only [BitVec.toNat_append, BitVec.toNat_ofNat]
  have hi' : i % 2 ^ 8 < 2 ^ 8 := Nat.mod_lt _ (by decide)
  have hx : x % 2 ^ 16 < 2 ^ 16 := Nat.mod_lt _ (by decide)
  rw [← Nat.shiftLeft_add_eq_or_of_lt hi', ← Nat.shiftLeft_add_eq_or_of_lt hx]
  simp only [Nat.shiftLeft_eq, Nat.shiftRight_eq_div_pow]
  omega

@[simp] theorem headerIdx_mkHeader (c i x : Nat) (hx : x < 2 ^ 16) : headerIdx (mkHeader c i x) = x := by
  unfold headerIdx mkHeader
  rw [BitVec.extractLsb'_toNat]
  simp only [BitVec.toNat_append, BitVec.toNat_ofNat]
  have hi' : i % 2 ^ 8 < 2 ^ 8 := Nat.mod_lt _ (by decide)
  have hx' : x % 2 ^ 16 < 2 ^ 16 := Nat.mod_lt _ (by decide)
  rw [← Nat.shiftLeft_add_eq_or_of_lt hi', ← Nat.shiftLeft_add_eq_or_of_lt hx']
  simp only [Nat.shiftLeft_eq, Nat.shiftRight_eq_div_pow]
  omega

/-- A header is put together from its own fields. -/
theorem mkHeader_fields (h : Word) : mkHeader (headerCode h) (headerInst h) (headerIdx h) = h := by
  apply BitVec.eq_of_toNat_eq
  unfold mkHeader headerCode headerInst headerIdx
  simp only [BitVec.toNat_append, BitVec.toNat_ofNat, BitVec.extractLsb'_toNat,
    Nat.shiftRight_eq_div_pow, Nat.mod_mod]
  have hi : h.toNat / 2 ^ 16 % 2 ^ 8 < 2 ^ 8 := Nat.mod_lt _ (by decide)
  have hx : h.toNat / 2 ^ 0 % 2 ^ 16 < 2 ^ 16 := Nat.mod_lt _ (by decide)
  rw [← Nat.shiftLeft_add_eq_or_of_lt hi, ← Nat.shiftLeft_add_eq_or_of_lt hx]
  simp only [Nat.shiftLeft_eq]
  have := h.isLt
  omega

theorem headerCode_lt (h : Word) : headerCode h < 2 ^ 8 := (h.extractLsb' 24 8).isLt
theorem headerInst_lt (h : Word) : headerInst h < 2 ^ 8 := (h.extractLsb' 16 8).isLt
theorem headerIdx_lt (h : Word) : headerIdx h < 2 ^ 16 := (h.extractLsb' 0 16).isLt

/-! ## The command map (R103) -/

/-- Every row's code is one byte. -/
theorem row_code_lt (o : Op) : (row o).code < 2 ^ 8 := by cases o <;> decide

/-- No two rows share a code: looking a row's code up finds the row. -/
theorem opOfCode_row (o : Op) : opOfCode (row o).code = some o := by cases o <;> decide

/-- A row that is found has the code looked up. -/
theorem row_of_opOfCode {c : Nat} {o : Op} (h : opOfCode c = some o) : (row o).code = c := by
  have := List.find?_some h
  simpa using this

/-! ## Encoding -/

@[simp] theorem finOf_val {n : Nat} (i : Fin n) : finOf n i.val = some i := by
  simp [finOf]

theorem finOf_eq_some {n k : Nat} {i : Fin n} (h : finOf n k = some i) : i.val = k := by
  unfold finOf at h
  split at h
  · cases h; rfl
  · cases h

/-- An index binds as itself. -/
theorem bind_finOf {n : Nat} {α : Type} (i : Fin n) (f : Fin n → Option α) :
    (finOf n i.val).bind f = f i := by
  simp

/-- An index maps as itself. -/
theorem map_finOf {n : Nat} {α : Type} (i : Fin n) (f : Fin n → α) :
    (finOf n i.val).map f = some (f i) := by
  simp

/-- A 16-bit field read back from its number. -/
theorem ofNat_toNat_field (b : BitVec 16) : BitVec.ofNat 16 b.toNat = b := by
  simp

/-- An index is below its bound. -/
theorem bound_clear {n : Nat} (i : Fin n) : decide (n ≤ i.val) = false :=
  decide_eq_false (Nat.not_le.mpr i.isLt)

/-- A well-formed command's voice slot is below NV (R105). -/
theorem slot_clear {nv : Nat} {i : Instr} {v : Voice} (h : i.WellFormed nv) (hv : voiceOf i = some v) :
    decide (nv ≤ v.val) = false := by
  unfold Instr.WellFormed Instr.wellFormed Instr.slotOk at h
  rw [hv, Bool.and_eq_true] at h
  exact decide_eq_false (Nat.not_le.mpr (of_decide_eq_true h.2))

/-- A well-formed command's operand words are as many as its format says (R100). -/
theorem operands_ok {nv : Nat} {i : Instr} (h : i.WellFormed nv) : i.operandsOk = true := by
  unfold Instr.WellFormed Instr.wellFormed at h
  rw [Bool.and_eq_true] at h
  exact h.1

/-- Zero fits the `inst` field. -/
theorem zero_fits_inst : 0 < 2 ^ 8 := by decide
/-- Zero fits the `idx` field. -/
theorem zero_fits_idx : 0 < 2 ^ 16 := by decide
/-- An index with a small bound fits the `inst` field. -/
theorem fits_inst {n : Nat} (i : Fin n) (h : n ≤ 2 ^ 8) : i.val < 2 ^ 8 := lt_of_lt_of_le i.isLt h
/-- An index with a small bound fits the `idx` field. -/
theorem fits_idx {n : Nat} (i : Fin n) (h : n ≤ 2 ^ 16) : i.val < 2 ^ 16 := lt_of_lt_of_le i.isLt h
theorem nvMax_fits : nvMax ≤ 2 ^ 8 := by decide
theorem nlfo_fits : nlfo ≤ 2 ^ 8 := by decide
theorem two_fits : 2 ≤ 2 ^ 16 := by decide
theorem nosc_fits : nosc ≤ 2 ^ 16 := by decide
theorem nslot_fits : nslot ≤ 2 ^ 16 := by decide
theorem nfx_fits : nfx ≤ 2 ^ 16 := by decide

end Sys2Proof
end

