-- ==== Sys2Proof/Laws/Float.lean ====
section
/-!
SUPPORT. The laws of binary32 values: patterns and values, the order of magnitude patterns, and the two
facts every bound on a rounded result rests on, that rounding is exact on a representable value and
monotone.
-/

namespace Sys2Proof
namespace F

/-! ## Patterns (R17, R19) -/

/-- A value that is not a NaN is the value of its pattern. -/
theorem asF_bitsOr (n : Word) (x : F) (h : x ≠ .nan) : asF (bitsOr n x) = x := by
  have low : ∀ (b : Bool) (k : Nat), k < 2 ^ 31 →
      ((BitVec.ofBool b ++ BitVec.ofNat 31 k : BitVec 32).extractLsb' 0 31).toNat = k := by
    intro b k hk
    rw [BitVec.extractLsb'_append_eq_right]
    simpa using hk
  have sign : ∀ (b : Bool) (k : Nat),
      (BitVec.ofBool b ++ BitVec.ofNat 31 k : BitVec 32).getLsbD 31 = b := by
    intro b k
    rw [BitVec.getLsbD_append]
    simp
  cases x with
  | nan => exact absurd rfl h
  | inf s =>
    simp only [bitsOr, asF, low s magInf (by decide), sign]
    simp
  | fin s m =>
    have hm : m.val < 2 ^ 31 := lt_trans m.isLt (by decide)
    simp only [bitsOr, asF, low s m.val hm, sign]
    simp [m.isLt]

/-- Every free NaN pattern is the pattern of a NaN (R19). -/
theorem isNanPattern_toNanPattern (w : Word) : isNanPattern (toNanPattern w) = true := by
  unfold toNanPattern
  split_ifs with h1 h2
  · exact h1
  · exact h2
  · have h : 0x7F800001 ≤ (w ||| 0x7F800001#32).toNat % 2 ^ 31 := by
      rw [BitVec.toNat_or, Nat.or_mod_two_pow]
      exact Nat.right_le_or
    have e : ((w ||| 0x7F800001#32).extractLsb' 0 31).toNat = (w ||| 0x7F800001#32).toNat % 2 ^ 31 := by
      simp
    simp only [isNanPattern, decide_eq_true_eq, e, magInf]
    omega

/-- Every NaN pattern can be drawn (U9). -/
theorem toNanPattern_surjective (w : Word) (h : isNanPattern w = true) : toNanPattern w = w := if_pos h

/-! ## Magnitudes -/

/-- The value of a magnitude written as a mantissa and an exponent, at most one past the top mantissa. -/
theorem magVal_mantissa (sh t : Nat) (ht : t ≤ 2 ^ 24) (h : sh = 0 ∨ 2 ^ 23 ≤ t) :
    magVal (sh * 2 ^ 23 + t) = t * 2 ^ sh := by
  by_cases h1 : t < 2 ^ 23
  · obtain rfl : sh = 0 := by omega
    have e : (0 * 2 ^ 23 + t) / 2 ^ 23 = 0 := by omega
    unfold magVal; rw [if_pos e]; omega
  · by_cases h2 : t = 2 ^ 24
    · subst h2
      have e : (sh * 2 ^ 23 + 2 ^ 24) / 2 ^ 23 = sh + 2 := by omega
      have f : (sh * 2 ^ 23 + 2 ^ 24) % 2 ^ 23 = 0 := by omega
      unfold magVal; rw [e, f, if_neg (by omega)]
      show (2 ^ 23 + 0) * 2 ^ (sh + 1) = 2 ^ 24 * 2 ^ sh
      rw [Nat.pow_succ]; ring
    · have e : (sh * 2 ^ 23 + t) / 2 ^ 23 = sh + 1 := by omega
      have f : (sh * 2 ^ 23 + t) % 2 ^ 23 = t - 2 ^ 23 := by omega
      unfold magVal; rw [e, f, if_neg (by omega)]
      have g : 2 ^ 23 + (t - 2 ^ 23) = t := by omega
      rw [g, Nat.add_sub_cancel]

/-- Rounded division is the floor or the one above. -/
theorem divNearestEven_bounds (n d : Nat) :
    n / d ≤ divNearestEven n d ∧ divNearestEven n d ≤ n / d + 1 := by
  unfold divNearestEven; split_ifs <;> omega

/-- Rounded division of a multiple is exact. -/
theorem divNearestEven_exact (k d : Nat) (hd : 0 < d) : divNearestEven (k * d) d = k := by
  unfold divNearestEven
  rw [Nat.mul_mod_left, Nat.mul_div_cancel _ hd]
  rw [if_neg (by omega)]

/-- Rounded division is monotone in the quotient. -/
theorem divNearestEven_mono {a b c d : Nat} (hb : 0 < b) (hd : 0 < d) (h : a * d ≤ c * b) :
    divNearestEven a b ≤ divNearestEven c d := by
  have fl : a / b ≤ c / d := by
    rw [Nat.le_div_iff_mul_le hd]
    have h1 : a / b * b ≤ a := Nat.div_mul_le_self a b
    have h2 : a / b * d * b ≤ c * b := by
      calc a / b * d * b = a / b * b * d := by ring
        _ ≤ a * d := Nat.mul_le_mul_right d h1
        _ ≤ c * b := h
    exact Nat.le_of_mul_le_mul_right h2 hb
  rcases Nat.lt_or_eq_of_le fl with hlt | heq
  · exact le_trans (divNearestEven_bounds a b).2 (le_trans hlt (divNearestEven_bounds c d).1)
  · have ea := Nat.div_add_mod a b
    have ec := Nat.div_add_mod c d
    have hr : a % b * d ≤ c % d * b := by
      rw [← heq] at ec
      have : (b * (a / b) + a % b) * d ≤ (d * (a / b) + c % d) * b := by rw [ea, ec]; exact h
      nlinarith
    unfold divNearestEven
    rw [heq]
    have key1 : b ≤ 2 * (a % b) → d ≤ 2 * (c % d) := by
      intro hx
      have : b * d ≤ 2 * (c % d) * b := by nlinarith
      exact Nat.le_of_mul_le_mul_right (by linarith [this]) hb
    have key2 : b < 2 * (a % b) → d < 2 * (c % d) := by
      intro hx
      have : b * d < 2 * (c % d) * b := by nlinarith
      exact Nat.lt_of_mul_lt_mul_right (a := b) (by linarith [this])
    split_ifs <;> omega

/-- The mantissa a rounding chooses: below `2^24` units there is no shift, above it the mantissa has 24
bits, or is the carry `2^24`. -/
theorem roundMag_mantissa (n d : Nat) :
    divNearestEven n (d * 2 ^ ((n / d).log2 - 23)) ≤ 2 ^ 24 ∧
      ((n / d).log2 - 23 = 0 ∨ 2 ^ 23 ≤ divNearestEven n (d * 2 ^ ((n / d).log2 - 23))) := by
  have hb := divNearestEven_bounds n (d * 2 ^ ((n / d).log2 - 23))
  have hq : n / (d * 2 ^ ((n / d).log2 - 23)) = n / d / 2 ^ ((n / d).log2 - 23) :=
    (Nat.div_div_eq_div_mul n d _).symm
  rw [hq] at hb
  generalize hs : (n / d).log2 - 23 = sh at *
  have upper : n / d < 2 ^ (24 + sh) := by
    have h1 : n / d < 2 ^ ((n / d).log2 + 1) := Nat.lt_log2_self
    exact lt_of_lt_of_le h1 (Nat.pow_le_pow_right (by decide) (by omega))
  have hu : n / d / 2 ^ sh < 2 ^ 24 := by
    rw [Nat.div_lt_iff_lt_mul (by positivity), ← pow_add]; exact upper
  refine ⟨by omega, ?_⟩
  by_cases h0 : sh = 0
  · exact Or.inl h0
  · right
    have hne : n / d ≠ 0 := by
      intro c; rw [c] at hs; simp at hs; omega
    have lower : 2 ^ (23 + sh) ≤ n / d := by
      have h1 : 2 ^ (n / d).log2 ≤ n / d := Nat.log2_self_le hne
      exact le_trans (Nat.pow_le_pow_right (by decide) (by omega)) h1
    have hl : 2 ^ 23 ≤ n / d / 2 ^ sh := by
      rw [Nat.le_div_iff_mul_le (by positivity), ← pow_add]; exact lower
    omega

/-- The value a rounding lands on: the rounded mantissa times the quantum. -/
theorem magVal_roundMag (n d : Nat) :
    magVal (roundMag n d) =
      divNearestEven n (d * 2 ^ ((n / d).log2 - 23)) * 2 ^ ((n / d).log2 - 23) :=
  magVal_mantissa _ _ (roundMag_mantissa n d).1 (roundMag_mantissa n d).2

/-- Rounding is monotone. -/
theorem roundMag_mono {a b c d : Nat} (hb : 0 < b) (hd : 0 < d) (h : a * d ≤ c * b) :
    roundMag a b ≤ roundMag c d := by
  have fl : a / b ≤ c / d := by
    rw [Nat.le_div_iff_mul_le hd]
    have h1 : a / b * b ≤ a := Nat.div_mul_le_self a b
    have h2 : a / b * d * b ≤ c * b := by
      calc a / b * d * b = a / b * b * d := by ring
        _ ≤ a * d := Nat.mul_le_mul_right d h1
        _ ≤ c * b := h
    exact Nat.le_of_mul_le_mul_right h2 hb
  have hlog : (a / b).log2 ≤ (c / d).log2 := by
    rw [Nat.log2_eq_log_two, Nat.log2_eq_log_two]; exact Nat.log_mono_right fl
  have ma := roundMag_mantissa a b
  have mc := roundMag_mantissa c d
  unfold roundMag
  rcases Nat.lt_or_ge ((a / b).log2 - 23) ((c / d).log2 - 23) with hlt | hge
  · have := mc.2.resolve_left (by omega)
    omega
  · have heq : (a / b).log2 - 23 = (c / d).log2 - 23 := by omega
    rw [heq]
    refine Nat.add_le_add_left (divNearestEven_mono (by positivity) (by positivity) ?_) _
    calc a * (d * 2 ^ ((c / d).log2 - 23)) = a * d * 2 ^ ((c / d).log2 - 23) := by ring
      _ ≤ c * b * 2 ^ ((c / d).log2 - 23) := Nat.mul_le_mul_right _ h
      _ = c * (b * 2 ^ ((c / d).log2 - 23)) := by ring

/-- Rounding a representable value is exact. -/
theorem roundMag_magVal (m : Nat) : roundMag (magVal m) 1 = m := by
  by_cases h : m < 2 ^ 24
  · have hv : magVal m = m := by
      have := magVal_mantissa 0 m (by omega) (Or.inl rfl)
      simpa using this
    have hl : m.log2 - 23 = 0 := by
      have : m.log2 < 24 := by
        by_cases h0 : m = 0
        · subst h0; decide
        · exact (Nat.log2_lt h0).mpr h
      omega
    unfold roundMag
    rw [hv, Nat.div_one, hl]
    have := divNearestEven_exact m 1 (by decide)
    simpa using this
  · have hm := Nat.div_add_mod m (2 ^ 23)
    have hf : m % 2 ^ 23 < 2 ^ 23 := Nat.mod_lt _ (by decide)
    have he : 2 ≤ m / 2 ^ 23 := by omega
    have hv : magVal m = (2 ^ 23 + m % 2 ^ 23) * 2 ^ (m / 2 ^ 23 - 1) := by
      unfold magVal; rw [if_neg (by omega)]
    generalize hg : m / 2 ^ 23 - 1 = g at *
    generalize hr : m % 2 ^ 23 = r at *
    have hlog : (magVal m).log2 = 23 + g := by
      rw [hv]
      have hne : (2 ^ 23 + r) * 2 ^ g ≠ 0 := by positivity
      apply le_antisymm
      · have : (2 ^ 23 + r) * 2 ^ g < 2 ^ (23 + g + 1) := by
          have e : (2 : Nat) ^ (23 + g + 1) = 2 ^ 24 * 2 ^ g := by rw [← pow_add]; congr 1; omega
          rw [e]
          exact Nat.mul_lt_mul_of_pos_right (by omega) (by positivity)
        have := (Nat.log2_lt hne).mpr this
        omega
      · rw [Nat.le_log2 hne, pow_add]
        exact Nat.mul_le_mul_right _ (by omega)
    unfold roundMag
    rw [Nat.div_one, hlog, hv, Nat.add_sub_cancel_left, Nat.one_mul,
      divNearestEven_exact _ _ (by positivity)]
    omega

/-- The order of the patterns is the order of their values (R17). -/
theorem magVal_le_iff (m n : Nat) : magVal m ≤ magVal n ↔ m ≤ n := by
  have mono : ∀ a b, magVal a ≤ magVal b → a ≤ b := by
    intro a b h
    have := roundMag_mono (a := magVal a) (b := 1) (c := magVal b) (d := 1) (by decide) (by decide)
      (by simpa using h)
    rwa [roundMag_magVal, roundMag_magVal] at this
  refine ⟨mono m n, fun h => ?_⟩
  rcases Nat.le_total (magVal m) (magVal n) with h' | h'
  · exact h'
  · have := mono n m h'
    have e : m = n := by omega
    rw [e]

/-- Strict order likewise. -/
theorem magVal_lt_iff (m n : Nat) : magVal m < magVal n ↔ m < n := by
  rw [← not_le, ← not_le, magVal_le_iff]

/-- A quotient not above a representable value does not round above it. -/
theorem roundMag_le {n d : Nat} (m : Nat) (hd : 0 < d) (h : n ≤ magVal m * d) : roundMag n d ≤ m := by
  have := roundMag_mono (a := n) (b := d) (c := magVal m) (d := 1) hd (by decide) (by simpa using h)
  rwa [roundMag_magVal] at this

/-- A quotient not below a representable value does not round below it. -/
theorem le_roundMag {n d : Nat} (m : Nat) (hd : 0 < d) (h : magVal m * d ≤ n) : m ≤ roundMag n d := by
  have := roundMag_mono (a := magVal m) (b := 1) (c := n) (d := d) (by decide) hd (by simpa using h)
  rwa [roundMag_magVal] at this

/-! ## Rounded results -/

/-- Rounding below the pattern of infinity gives the finite value. -/
theorem round_fin {s : Bool} {n d : Nat} (h : roundMag n d < magInf) :
    round s n d = .fin s ⟨roundMag n d, h⟩ := dif_pos h

/-- Rounding a finite value's own magnitude gives it back. -/
@[simp] theorem round_magVal (s : Bool) (m : Fin magInf) : round s (magVal m.val) 1 = .fin s m := by
  have h : roundMag (magVal m.val) 1 < magInf := by rw [roundMag_magVal]; exact m.isLt
  rw [round_fin h]
  congr 1
  exact Fin.ext (roundMag_magVal m.val)

/-- What rounds not above a finite value is finite and not above it. -/
theorem round_le_fin {s : Bool} {n d : Nat} (m : Fin magInf) (hd : 0 < d) (h : n ≤ magVal m.val * d) :
    ∃ k : Fin magInf, round s n d = .fin s k ∧ k ≤ m := by
  have hk := roundMag_le m.val hd h
  exact ⟨⟨roundMag n d, lt_of_le_of_lt hk m.isLt⟩, round_fin _, hk⟩

/-- The rounded result keeps the sign it is given. -/
@[simp] theorem signBit_round (s : Bool) (n d : Nat) : (round s n d).signBit = s := by
  unfold round; split <;> rfl

/-- A rounded result is never a NaN. -/
theorem round_ne_nan (s : Bool) (n d : Nat) : round s n d ≠ .nan := by
  unfold round; split <;> exact fun h => by cases h

/-- The sum of two finite values is not a NaN. -/
theorem add_fin_ne_nan (s t : Bool) (m n : Fin magInf) : add (.fin s m) (.fin t n) ≠ .nan := by
  simp only [add]
  split_ifs
  · exact round_ne_nan _ _ _
  · exact fun h => by cases h
  · exact round_ne_nan _ _ _
  · exact round_ne_nan _ _ _

/-- The product of two finite values is not a NaN. -/
theorem mul_fin_ne_nan (s t : Bool) (m n : Fin magInf) : mul (.fin s m) (.fin t n) ≠ .nan := by
  simp only [mul]
  exact round_ne_nan _ _ _

/-! ## Comparisons (R18) -/

/-- Not a NaN and not an infinity is a finite value. -/
theorem isFinite_iff (x : F) : x.isFinite = true ↔ ∃ s m, x = .fin s m := by
  cases x <;> simp [isFinite]

@[simp] theorem isFinite_fin (s : Bool) (m : Fin magInf) : (F.fin s m).isFinite = true := rfl
@[simp] theorem isFinite_inf (s : Bool) : (F.inf s).isFinite = false := rfl
@[simp] theorem isFinite_nan : F.nan.isFinite = false := rfl
@[simp] theorem neg_neg (x : F) : neg (neg x) = x := by cases x <;> simp [neg]
@[simp] theorem isFinite_neg (x : F) : (neg x).isFinite = x.isFinite := by cases x <;> rfl

/-- `<=` is reflexive but on NaNs. -/
theorem le_refl_of (x : F) (h : x ≠ .nan) : le x x = true := by
  cases x <;> simp_all [le, key]

/-- `<=` is transitive. -/
theorem le_trans' {x y z : F} (h1 : le x y = true) (h2 : le y z = true) : le x z = true := by
  unfold le at *
  revert h1 h2
  cases key x <;> cases key y <;> cases key z <;> simp
  exact fun a b => Int.le_trans a b

/-- Off the NaNs `<=` is total. -/
theorem le_of_not_lt {x y : F} (hx : x ≠ .nan) (hy : y ≠ .nan) (h : lt x y = false) : le y x = true := by
  cases x <;> cases y <;> simp_all [lt, le, key]

/-- `<` is stronger than `<=`. -/
theorem le_of_lt {x y : F} (h : lt x y = true) : le x y = true := by
  unfold lt le at *
  revert h
  cases key x <;> cases key y <;> simp
  exact fun a => Int.le_of_lt a

/-- A comparison that holds has no NaN (R18). -/
theorem ne_nan_of_le {x y : F} (h : le x y = true) : x ≠ .nan ∧ y ≠ .nan := by
  constructor <;> rintro rfl
  · simp [le, key] at h
  · cases x <;> simp [le, key] at h

end F
end Sys2Proof
end

