-- ==== Sys2Proof/Laws/Line.lean ====
section
/-!
SUPPORT. The laws of the effect lines: reading after a write, and that every operation keeps the canonical
form (assumption 14).
-/

namespace Sys2Proof

/-! ## Entries -/

/-- An index below every entry is unlisted. -/
theorem lookupEntry_of_below (i : Nat) (es : List (Nat × F)) (h : ∀ e ∈ es, i < e.1) :
    lookupEntry i es = F.zero := by
  induction es with
  | nil => rfl
  | cons e rest ih =>
    have hk : e.1 ≠ i := Nat.ne_of_gt (h e (List.mem_cons_self ..))
    simp only [lookupEntry, if_neg hk]
    exact ih fun d hd => h d (List.mem_cons_of_mem _ hd)

/-- The canonical form, unfolded once. -/
theorem entriesWf_cons (len k : Nat) (x : F) (rest : List (Nat × F)) :
    entriesWf len ((k, x) :: rest) = true ↔
      k < len ∧ x ≠ F.zero ∧ (∀ e ∈ rest, k < e.1) ∧ entriesWf len rest = true := by
  simp [entriesWf, List.all_eq_true, and_assoc]

/-- Every entry of a canonical list is below the length. -/
theorem entriesWf_bound {len : Nat} {es : List (Nat × F)} (h : entriesWf len es = true) :
    ∀ e ∈ es, e.1 < len ∧ e.2 ≠ F.zero := by
  induction es with
  | nil => simp
  | cons d rest ih =>
    obtain ⟨hk, hx, -, hr⟩ := (entriesWf_cons len d.1 d.2 rest).mp h
    intro e he
    rcases List.mem_cons.mp he with rfl | he
    · exact ⟨hk, hx⟩
    · exact ih hr e he

/-- The indices of an insertion are the old ones and the new one. -/
theorem mem_insertEntry {i : Nat} {x : F} {es : List (Nat × F)} {e : Nat × F}
    (h : e ∈ insertEntry i x es) : e = (i, x) ∨ e ∈ es := by
  induction es with
  | nil =>
    simp only [insertEntry] at h
    split at h <;> simp_all
  | cons d rest ih =>
    obtain ⟨k, y⟩ := d
    simp only [insertEntry] at h
    split_ifs at h <;> simp only [List.mem_cons] at h ⊢ <;> tauto

/-- What is inserted is among the entries, but for `+0.0`. -/
theorem mem_insertEntry_self {i : Nat} {x : F} (hx : x ≠ F.zero) (es : List (Nat × F)) :
    (i, x) ∈ insertEntry i x es := by
  induction es with
  | nil => simp [insertEntry, hx]
  | cons d rest ih =>
    obtain ⟨k, y⟩ := d
    simp only [insertEntry]
    split_ifs <;> simp [ih]

/-- An insertion keeps the canonical form. -/
theorem insertEntry_wf {len i : Nat} {x : F} {es : List (Nat × F)} (hi : i < len)
    (h : entriesWf len es = true) : entriesWf len (insertEntry i x es) = true := by
  induction es with
  | nil =>
    simp only [insertEntry]
    split_ifs with hx
    · rfl
    · exact (entriesWf_cons ..).mpr ⟨hi, hx, by simp, rfl⟩
  | cons d rest ih =>
    obtain ⟨k, y⟩ := d
    have hd := (entriesWf_cons len k y rest).mp h
    simp only [insertEntry]
    split_ifs with h1 h2 h3 h4
    · exact h
    · refine (entriesWf_cons ..).mpr ⟨hi, h2, ?_, h⟩
      intro e he
      rcases List.mem_cons.mp he with rfl | he
      · exact h1
      · exact lt_trans h1 (hd.2.2.1 e he)
    · exact hd.2.2.2
    · exact (entriesWf_cons ..).mpr ⟨hi, h4, fun e he => h3 ▸ hd.2.2.1 e he, hd.2.2.2⟩
    · refine (entriesWf_cons ..).mpr ⟨hd.1, hd.2.1, ?_, ih hd.2.2.2⟩
      intro e he
      rcases mem_insertEntry he with rfl | he
      · show k < i
        omega
      · exact hd.2.2.1 e he

/-- Reading the inserted index of a canonical list gives the inserted value. -/
theorem lookupEntry_insertEntry_same {len i : Nat} {x : F} {es : List (Nat × F)}
    (h : entriesWf len es = true) : lookupEntry i (insertEntry i x es) = x := by
  induction es with
  | nil =>
    simp only [insertEntry]
    split_ifs with hx
    · exact hx.symm
    · simp [lookupEntry]
  | cons d rest ih =>
    obtain ⟨k, y⟩ := d
    have hd := (entriesWf_cons len k y rest).mp h
    simp only [insertEntry]
    split_ifs with h1 h2 h3 h4
    · rw [h2]
      refine lookupEntry_of_below i _ fun e he => ?_
      rcases List.mem_cons.mp he with rfl | he
      · exact h1
      · exact lt_trans h1 (hd.2.2.1 e he)
    · simp [lookupEntry]
    · rw [h4]
      exact lookupEntry_of_below i _ fun e he => h3 ▸ hd.2.2.1 e he
    · simp [lookupEntry]
    · have hk : k ≠ i := fun c => h3 c.symm
      simp only [lookupEntry, if_neg hk]
      exact ih hd.2.2.2

/-- Reading another index gives what it gave before. -/
theorem lookupEntry_insertEntry_other {i j : Nat} (x : F) (es : List (Nat × F)) (hij : i ≠ j) :
    lookupEntry j (insertEntry i x es) = lookupEntry j es := by
  induction es with
  | nil =>
    simp only [insertEntry]
    split_ifs <;> simp [lookupEntry, hij]
  | cons d rest ih =>
    obtain ⟨k, y⟩ := d
    simp only [insertEntry]
    split_ifs with h1 h2 h3 h4
    · rfl
    · simp [lookupEntry, hij]
    · have hk : k ≠ j := h3 ▸ hij
      simp [lookupEntry, hk]
    · have hk : k ≠ j := h3 ▸ hij
      simp [lookupEntry, hij, hk]
    · simp only [lookupEntry, ih]

/-- The canonical form asks of the length only that it is above every index. -/
theorem entriesWf_of_bound {len len' : Nat} {es : List (Nat × F)} (h : entriesWf len es = true)
    (hb : ∀ e ∈ es, e.1 < len') : entriesWf len' es = true := by
  induction es with
  | nil => rfl
  | cons d rest ih =>
    have hd := (entriesWf_cons len d.1 d.2 rest).mp h
    exact (entriesWf_cons ..).mpr ⟨hb d (List.mem_cons_self ..), hd.2.1, hd.2.2.1,
      ih hd.2.2.2 fun e he => hb e (List.mem_cons_of_mem _ he)⟩

/-- Every index is below the span. -/
theorem lt_entriesSpan {es : List (Nat × F)} {e : Nat × F} (h : e ∈ es) : e.1 < entriesSpan es := by
  induction es with
  | nil => simp at h
  | cons d rest ih =>
    rcases List.mem_cons.mp h with rfl | h
    · exact lt_of_lt_of_le (Nat.lt_succ_self _) (le_max_left _ _)
    · exact lt_of_lt_of_le (ih h) (le_max_right _ _)

/-! ## Lines -/

/-- The line of zeros is canonical. -/
@[simp] theorem Line.cleared_wf (len : Nat) : Line.cleared.wf len = true := rfl

/-- The line of zeros reads as `+0.0` everywhere (R52). -/
@[simp] theorem Line.get_cleared (i : Nat) : Line.cleared.get i = F.zero := rfl

/-- A write inside the line keeps the canonical form. -/
theorem Line.set_wf {len i : Nat} {l : Line} (x : F) (hi : i < len) (h : l.wf len = true) :
    (l.set i x).wf len = true := insertEntry_wf hi h

/-- An element written reads as the value written. -/
theorem Line.get_set_same {len i : Nat} {l : Line} (x : F) (h : l.wf len = true) :
    (l.set i x).get i = x := lookupEntry_insertEntry_same h

/-- Every other element reads as before. -/
theorem Line.get_set_other {i j : Nat} (l : Line) (x : F) (hij : i ≠ j) :
    (l.set i x).get j = l.get j := lookupEntry_insertEntry_other x l.entries hij

/-- A line that is canonical for some length is canonical. -/
theorem Line.canonical_of_wf {len : Nat} {l : Line} (h : l.wf len = true) : l.canonical = true :=
  entriesWf_of_bound h fun _ he => lt_entriesSpan he

/-- A write anywhere keeps a line of no fixed length canonical. -/
theorem Line.set_canonical {l : Line} (i : Nat) (x : F) (h : l.canonical = true) :
    (l.set i x).canonical = true := by
  have hw : l.wf (max (i + 1) (entriesSpan l.entries)) = true :=
    entriesWf_of_bound h fun _ he => lt_of_lt_of_le (lt_entriesSpan he) (le_max_right _ _)
  exact Line.canonical_of_wf (Line.set_wf x (lt_of_lt_of_le (Nat.lt_succ_self i) (le_max_left _ _)) hw)

/-- A tap index is inside the line (R382 d). -/
theorem tapIndex_lt {len : Nat} (w d : Nat) (h : 0 < len) : tapIndex len w d < len := Nat.mod_lt _ h

namespace Machine

/-- What a kernel writes keeps its line canonical (R307, R309). -/
theorem applyWrites_canonical (ws : List (Nat × F)) (l : Line) (h : l.canonical = true) :
    (applyWrites l ws).canonical = true := by
  induction ws generalizing l with
  | nil => exact h
  | cons e rest ih => exact ih _ (Line.set_canonical e.1 e.2 h)

/-- A call of a kernel keeps its line canonical (R307, R309). -/
theorem kernelCall_canonical (raw : Config.KernelState → F → F → Config.KernelStep) (k : Config.KernelState)
    (x mix : F) (h : k.line.canonical = true) : (kernelCall raw k x mix).1.line.canonical = true := by
  have hw := applyWrites_canonical (raw k x mix).writes k.line h
  unfold kernelCall kernelState kernelLine
  dsimp only
  split_ifs
  · exact h
  · exact hw
  · exact Line.set_canonical _ _ hw
  · exact hw
  · exact hw

end Machine

end Sys2Proof
end

