-- ==== Sys2Proof/Laws/Rational.lean ====
section
/-!
SUPPORT. Binary32 values against the rationals: the comparisons are those of the exact values, and no
rounded operation crosses a representable bound of its exact result. Every bound on a computed register
follows from the second.
-/

namespace Sys2Proof.Machine

open Sys2Proof Config F

/-! ## Exact values -/

theorem two149_pos : (0 : ℚ) < 2 ^ 149 := by positivity

/-- The exact value of a finite value with its sign clear. -/
theorem toRat_pos (m : Fin magInf) : toRat (.fin false m) = (magVal m.val : ℚ) / 2 ^ 149 := by
  simp [toRat]

/-- The exact value of a finite value with its sign set. -/
theorem toRat_negative (m : Fin magInf) : toRat (.fin true m) = -((magVal m.val : ℚ) / 2 ^ 149) := by
  simp [toRat]; ring

/-- Unary minus negates the exact value (R18). -/
@[simp] theorem toRat_neg (x : F) : toRat (F.neg x) = -toRat x := by
  cases x with
  | nan => simp [F.neg, toRat]
  | inf s => simp [F.neg, toRat]
  | fin s m => cases s <;> simp [F.neg, toRat] <;> ring

theorem magVal_zero : magVal 0 = 0 := rfl

/-- Only the zero patterns have the value zero. -/
theorem magVal_eq_zero (m : Nat) (h : magVal m = 0) : m = 0 := by
  have := (magVal_le_iff m 0).mp (by rw [h, magVal_zero])
  omega

/-! ## Comparisons are those of the exact values (R18) -/

/-- `<=` on finite values. -/
theorem le_iff_toRat {x y : F} (hx : x.isFinite = true) (hy : y.isFinite = true) :
    F.le x y = true ↔ toRat x ≤ toRat y := by
  obtain ⟨s, m, rfl⟩ := (isFinite_iff x).mp hx
  obtain ⟨t, n, rfl⟩ := (isFinite_iff y).mp hy
  have hm : (0 : ℚ) ≤ (magVal m.val : ℚ) / 2 ^ 149 := by positivity
  have hn : (0 : ℚ) ≤ (magVal n.val : ℚ) / 2 ^ 149 := by positivity
  have same : ∀ a b : Fin magInf,
      (magVal a.val : ℚ) / 2 ^ 149 ≤ (magVal b.val : ℚ) / 2 ^ 149 ↔ a.val ≤ b.val := by
    intro a b
    rw [div_le_div_iff_of_pos_right two149_pos, Nat.cast_le, magVal_le_iff]
  have zero_of : ∀ a : Fin magInf, (magVal a.val : ℚ) / 2 ^ 149 = 0 → a.val = 0 := by
    intro a h
    have : (magVal a.val : ℚ) = 0 := by
      rcases div_eq_zero_iff.mp h with h | h
      · exact h
      · exact absurd h (ne_of_gt two149_pos)
    exact magVal_eq_zero _ (by exact_mod_cast this)
  cases s <;> cases t <;> simp only [toRat_pos, toRat_negative, F.le, F.key, Bool.false_eq_true,
    if_true, if_false, decide_eq_true_eq]
  · rw [same]; omega
  · constructor
    · intro h
      have h1 : m.val = 0 := by omega
      have h2 : n.val = 0 := by omega
      rw [h1, h2, magVal_zero]; simp
    · intro h
      have h1 := zero_of m (by linarith)
      have h2 := zero_of n (by linarith)
      omega
  · constructor
    · intro _; linarith
    · intro _; omega
  · rw [neg_le_neg_iff, neg_le_neg_iff, same, Nat.cast_le]

/-- `<` on finite values. -/
theorem lt_iff_toRat {x y : F} (hx : x.isFinite = true) (hy : y.isFinite = true) :
    F.lt x y = true ↔ toRat x < toRat y := by
  rw [← not_le, ← le_iff_toRat hy hx]
  obtain ⟨s, m, rfl⟩ := (isFinite_iff x).mp hx
  obtain ⟨t, n, rfl⟩ := (isFinite_iff y).mp hy
  simp [F.le, F.lt, F.key]

/-- `==` on finite values. -/
theorem feq_iff_toRat {x y : F} (hx : x.isFinite = true) (hy : y.isFinite = true) :
    F.feq x y = true ↔ toRat x = toRat y := by
  rw [le_antisymm_iff (a := toRat x), ← le_iff_toRat hx hy, ← le_iff_toRat hy hx]
  obtain ⟨s, m, rfl⟩ := (isFinite_iff x).mp hx
  obtain ⟨t, n, rfl⟩ := (isFinite_iff y).mp hy
  simp only [F.le, F.feq, F.key, decide_eq_true_eq]
  omega

/-- The place of a negated value in the order. -/
theorem key_neg (x : F) : F.key (F.neg x) = (F.key x).map fun z => -z := by
  cases x with
  | nan => rfl
  | inf s => cases s <;> rfl
  | fin s m => cases s <;> simp [F.neg, F.key]

/-- Unary minus reverses `<=`. -/
theorem le_neg_neg (x y : F) : F.le (F.neg x) (F.neg y) = F.le y x := by
  unfold F.le
  rw [key_neg, key_neg]
  cases F.key x <;> cases F.key y <;> simp

/-- Every finite value is below the positive infinity. -/
theorem le_inf (s : Bool) (m : Fin magInf) : F.le (.fin s m) (.inf false) = true := by
  have := m.isLt
  cases s <;> simp only [F.le, F.key, Bool.false_eq_true, if_true, if_false, decide_eq_true_eq] <;> omega

/-- Every non-positive value is below every non-negative one. -/
theorem le_signs (m n : Fin magInf) : F.le (.fin true m) (.fin false n) = true := by
  simp only [F.le, F.key, Bool.false_eq_true, if_true, if_false, decide_eq_true_eq]
  omega

/-- Two values with their sign clear. -/
theorem le_fin_false (m n : Fin magInf) : F.le (.fin false m) (.fin false n) = true ↔ m.val ≤ n.val := by
  simp only [F.le, F.key, Bool.false_eq_true, if_false, decide_eq_true_eq]
  omega

/-! ## Rounded operations do not cross a representable bound -/

/-- `r` is not a NaN and lies on the same side of every finite value as the exact result `x`. -/
def Respects (x : ℚ) (r : F) : Prop :=
  r ≠ .nan ∧ ∀ c : F, c.isFinite = true →
    (x ≤ toRat c → F.le r c = true) ∧ (toRat c ≤ x → F.le c r = true)

theorem Respects.neg {x : ℚ} {r : F} (h : Respects x r) : Respects (-x) (F.neg r) := by
  refine ⟨?_, fun c hc => ?_⟩
  · cases r <;> simp_all [F.neg, Respects]
  · have hc' : (F.neg c).isFinite = true := by simpa using hc
    have := h.2 (F.neg c) hc'
    rw [toRat_neg] at this
    constructor
    · intro hx
      have := this.2 (by linarith)
      rwa [← le_neg_neg, F.neg_neg] at this
    · intro hx
      have := this.1 (by linarith)
      rwa [← le_neg_neg, F.neg_neg] at this

/-- The two signs round alike. -/
theorem round_true (n d : Nat) : F.round true n d = F.neg (F.round false n d) := by
  unfold F.round; split <;> rfl

/-- A rounded quotient not above a representable magnitude. -/
theorem round_le_of {n d : Nat} (k : Fin magInf) (hd : 0 < d) (h : n ≤ magVal k.val * d) :
    F.le (F.round false n d) (.fin false k) = true := by
  obtain ⟨r, hr, hle⟩ := round_le_fin (s := false) k hd h
  rw [hr, le_fin_false]
  exact hle

/-- A rounded quotient not below a representable magnitude. -/
theorem le_round_of {n d : Nat} (k : Fin magInf) (hd : 0 < d) (h : magVal k.val * d ≤ n) :
    F.le (.fin false k) (F.round false n d) = true := by
  have hk := le_roundMag k.val hd h
  unfold F.round
  split
  · rw [le_fin_false]; exact hk
  · exact le_inf false k

/-- A rounded non-negative quotient is not below a value with its sign set. -/
theorem negative_le_round (n d : Nat) (k : Fin magInf) :
    F.le (.fin true k) (F.round false n d) = true := by
  unfold F.round
  split
  · exact le_signs ..
  · exact le_inf true k

/-- Rounding a non-negative quotient. -/
theorem round_respects_nonneg (n d : Nat) (hd : 0 < d) :
    Respects ((n : ℚ) / d / 2 ^ 149) (F.round false n d) := by
  refine ⟨round_ne_nan _ _ _, fun c hc => ?_⟩
  obtain ⟨t, k, rfl⟩ := (isFinite_iff c).mp hc
  have hdq : (0 : ℚ) < d := by exact_mod_cast hd
  cases t
  · rw [toRat_pos, div_le_div_iff_of_pos_right two149_pos, div_le_div_iff_of_pos_right two149_pos,
      div_le_iff₀ hdq, le_div_iff₀ hdq]
    exact ⟨fun h => round_le_of k hd (by exact_mod_cast h), fun h => le_round_of k hd (by exact_mod_cast h)⟩
  · refine ⟨fun h => ?_, fun _ => negative_le_round n d k⟩
    rw [toRat_negative] at h
    have hk : (0 : ℚ) ≤ (magVal k.val : ℚ) / 2 ^ 149 := by positivity
    have hn : (0 : ℚ) ≤ (n : ℚ) / d / 2 ^ 149 := by positivity
    have hk0 : (magVal k.val : ℚ) / 2 ^ 149 = 0 := by linarith
    have hn0 : (n : ℚ) / d / 2 ^ 149 = 0 := by linarith
    have hkz : magVal k.val = 0 := by
      have := (div_eq_zero_iff.mp hk0).resolve_right (ne_of_gt two149_pos)
      exact_mod_cast this
    have hnz : n = 0 := by
      have h1 := (div_eq_zero_iff.mp hn0).resolve_right (ne_of_gt two149_pos)
      have h2 := (div_eq_zero_iff.mp h1).resolve_right (ne_of_gt hdq)
      exact_mod_cast h2
    have hk1 : k = 0 := Fin.ext (magVal_eq_zero _ hkz)
    have up := round_le_of (n := n) (d := d) k hd (by rw [hnz]; exact Nat.zero_le _)
    subst hk1
    exact F.le_trans' up (by decide)

/-- Rounding a quotient of either sign. -/
theorem round_respects (s : Bool) (n d : Nat) (hd : 0 < d) :
    Respects ((if s then -1 else 1) * ((n : ℚ) / d / 2 ^ 149)) (F.round s n d) := by
  cases s
  · simpa using round_respects_nonneg n d hd
  · rw [round_true]
    simpa using (round_respects_nonneg n d hd).neg

/-- A zero stands exactly where zero does. -/
theorem zero_respects (s : Bool) : Respects 0 (.fin s 0) := by
  have h := round_respects_nonneg 0 1 (by decide)
  have e : F.round false 0 1 = .fin false 0 := by
    have := round_magVal false (0 : Fin magInf)
    simpa [magVal_zero] using this
  rw [e] at h
  cases s
  · simpa using h
  · simpa [F.neg] using h.neg

/-- `+` (R18). -/
theorem add_respects {x y : F} (hx : x.isFinite = true) (hy : y.isFinite = true) :
    Respects (toRat x + toRat y) (F.add x y) := by
  obtain ⟨s, m, rfl⟩ := (isFinite_iff x).mp hx
  obtain ⟨t, n, rfl⟩ := (isFinite_iff y).mp hy
  simp only [F.add]
  split_ifs with h1 h2 h3
  · subst h1
    have := round_respects s (magVal m.val + magVal n.val) 1 (by decide)
    convert this using 1
    simp only [toRat]; push_cast; ring
  · have e : toRat (.fin s m) + toRat (.fin t n) = 0 := by
      have : s = !t := by cases s <;> cases t <;> simp_all
      subst this
      cases t <;> simp [toRat, h2] <;> ring
    rw [e]
    exact zero_respects false
  · have := round_respects s (magVal m.val - magVal n.val) 1 (by decide)
    convert this using 1
    have hle : magVal n.val ≤ magVal m.val := Nat.le_of_lt h3
    have : t = !s := by cases s <;> cases t <;> simp_all
    subst this
    rw [Nat.cast_sub hle]
    cases s <;> simp [toRat] <;> ring
  · have := round_respects t (magVal n.val - magVal m.val) 1 (by decide)
    convert this using 1
    have hle : magVal m.val ≤ magVal n.val := by omega
    have : s = !t := by cases s <;> cases t <;> simp_all
    subst this
    rw [Nat.cast_sub hle]
    cases t <;> simp [toRat] <;> ring

/-- `-` (R18). -/
theorem sub_respects {x y : F} (hx : x.isFinite = true) (hy : y.isFinite = true) :
    Respects (toRat x - toRat y) (F.sub x y) := by
  have := add_respects hx (y := F.neg y) (by simpa using hy)
  rwa [toRat_neg, ← sub_eq_add_neg] at this

/-- `*` (R18). -/
theorem mul_respects {x y : F} (hx : x.isFinite = true) (hy : y.isFinite = true) :
    Respects (toRat x * toRat y) (F.mul x y) := by
  obtain ⟨s, m, rfl⟩ := (isFinite_iff x).mp hx
  obtain ⟨t, n, rfl⟩ := (isFinite_iff y).mp hy
  simp only [F.mul]
  have := round_respects (s != t) (magVal m.val * magVal n.val) (2 ^ 149) (by positivity)
  convert this using 1
  cases s <;> cases t <;> simp [toRat] <;> ring

/-- `/` by a value that is not zero (R18). -/
theorem div_respects {x y : F} (hx : x.isFinite = true) (hy : y.isFinite = true) (h0 : toRat y ≠ 0) :
    Respects (toRat x / toRat y) (F.div x y) := by
  obtain ⟨s, m, rfl⟩ := (isFinite_iff x).mp hx
  obtain ⟨t, n, rfl⟩ := (isFinite_iff y).mp hy
  have hn : n.val ≠ 0 := by
    intro h; apply h0; cases t <;> simp [toRat, h, magVal_zero]
  have hv : 0 < magVal n.val := by
    rcases Nat.eq_zero_or_pos (magVal n.val) with h | h
    · exact absurd (magVal_eq_zero _ h) hn
    · exact h
  simp only [F.div, if_neg hn]
  have := round_respects (s != t) (magVal m.val * 2 ^ 149) (magVal n.val) hv
  convert this using 1
  have hq : (magVal n.val : ℚ) ≠ 0 := by exact_mod_cast (Nat.pos_iff_ne_zero.mp hv)
  have h2 := ne_of_gt two149_pos
  have hc : ((2 ^ 149 : ℕ) : ℚ) = 2 ^ 149 := by norm_num
  rw [Nat.cast_mul, hc]
  simp only [toRat]
  generalize (2 : ℚ) ^ 149 = q at h2 ⊢
  cases s <;> cases t <;> simp <;> field_simp

end Sys2Proof.Machine
end

