-- ==== Sys2Proof/Laws/Numeric.lean ====
section
/-!
SUPPORT. The contracts of the open functions (00_scope.md R21; 41 R153; 46 R306, R307, R309), which hold
for every record of raw functions.
-/

namespace Sys2Proof.Machine

open Sys2Proof Config

/-! ## NUM (R21) -/

@[simp] theorem fexp_nan (P : Params) : fexp P .nan = .nan := rfl
@[simp] theorem fsin_nan (P : Params) : fsin P .nan = .nan := rfl
@[simp] theorem fcos_nan (P : Params) : fcos P .nan = .nan := rfl
@[simp] theorem fpow_nan_left (P : Params) (y : F) : fpow P .nan y = .nan := rfl
@[simp] theorem fpow_nan_right (P : Params) (x : F) : fpow P x .nan = .nan := by simp [fpow, F.isNan]
@[simp] theorem fsin_zero (P : Params) : fsin P F.zero = F.zero := rfl

/-- `fexp` of a finite negative value is a multiplier. -/
theorem fexp_multiplier (P : Params) (x : F) (hx : x.isFinite = true) (h : F.lt x F.zero = true) :
    inMultiplier (fexp P x) = true := by
  have hn : x.isNan = false := by cases x <;> simp_all [F.isNan]
  unfold fexp
  rw [hn, hx, h]
  simp only [Bool.false_eq_true, if_false, Bool.and_self, if_true]
  split_ifs with hr
  · simp only [Bool.and_eq_true, F.ge] at hr
    simp [inMultiplier, hr.1, hr.2]
  · decide

/-- A bounded value is in `[-1, 1]` and finite. -/
theorem boundUnit_spec (r : F) :
    F.le (F.neg F.one) (boundUnit r) = true ∧ F.le (boundUnit r) F.one = true ∧
      (boundUnit r).isFinite = true := by
  unfold boundUnit
  split_ifs with h
  · rw [Bool.and_eq_true] at h
    refine ⟨h.1, h.2, ?_⟩
    cases r with
    | nan => exact absurd h.1 (by decide)
    | inf s =>
      cases s
      · exact absurd h.2 (by decide)
      · exact absurd h.1 (by decide)
    | fin s m => rfl
  · exact ⟨by decide, by decide, rfl⟩

/-- `fsin` of a finite value is in `[-1, 1]`. -/
theorem fsin_unit (P : Params) (x : F) (hx : x.isFinite = true) :
    F.le (F.neg F.one) (fsin P x) = true ∧ F.le (fsin P x) F.one = true ∧
      (fsin P x).isFinite = true := by
  have hn : x.isNan = false := by cases x <;> simp_all [F.isNan]
  unfold fsin
  rw [hn, hx]
  simp only [Bool.false_eq_true, if_false, if_true]
  split_ifs
  · exact ⟨by decide, by decide, rfl⟩
  · exact boundUnit_spec _

/-- `fcos` of a finite value is in `[-1, 1]`. -/
theorem fcos_unit (P : Params) (x : F) (hx : x.isFinite = true) :
    F.le (F.neg F.one) (fcos P x) = true ∧ F.le (fcos P x) F.one = true ∧
      (fcos P x).isFinite = true := by
  have hn : x.isNan = false := by cases x <;> simp_all [F.isNan]
  unfold fcos
  rw [hn, hx]
  exact boundUnit_spec _

/-- `fpow(x, 1.0) = x`. -/
theorem fpow_one_right (P : Params) (x : F) : fpow P x F.one = x := by
  cases x with
  | nan => rfl
  | inf s => cases s <;> rfl
  | fin s m => rfl

/-- `fpow(1.0, y) = 1.0` for finite `y`. -/
theorem fpow_one_left (P : Params) (y : F) (hy : y.isFinite = true) : fpow P F.one y = F.one := by
  have hn : y.isNan = false := by cases y <;> simp_all [F.isNan]
  have h1 : F.one.isNan = false := rfl
  unfold fpow
  rw [hn, h1, hy]
  simp

/-! ## RNG (R153) -/

/-- Every draw is in `[-1, 1)`. -/
theorem rngBipolar_inDraw (P : Params) (s : Word) : inDraw (rngBipolar P s) = true := by
  unfold rngBipolar
  split_ifs with h
  · exact h
  · decide

@[simp] theorem draw_fst (P : Params) (r : Word) : (draw P r).1 = P.rngNext r := rfl
@[simp] theorem draw_snd (P : Params) (r : Word) : (draw P r).2 = rngBipolar P (P.rngNext r) := rfl

/-! ## Effect kernels (R306, R307, R309) -/

theorem feq_refl_of (x : F) (h : x ≠ .nan) : F.feq x x = true := by
  cases x <;> simp_all [F.feq, F.key]

theorem feq_neg (x y : F) : F.feq (F.neg x) (F.neg y) = F.feq x y := by
  unfold F.feq
  rw [key_neg, key_neg]
  cases F.key x <;> cases F.key y <;> simp

theorem isNan_neg (x : F) : (F.neg x).isNan = x.isNan := by cases x <;> rfl

theorem sameValue_neg (x y : F) : sameValue (F.neg x) (F.neg y) = sameValue x y := by
  unfold sameValue; rw [feq_neg, isNan_neg, isNan_neg]

theorem sameValue_symm (x y : F) : sameValue x y = sameValue y x := by
  unfold sameValue F.feq
  cases hx : F.key x <;> cases hy : F.key y <;> simp [Bool.and_comm, eq_comm]

theorem sameValue_refl (x : F) : sameValue x x = true := by
  cases x <;> simp [sameValue, F.feq, F.key, F.isNan]

/-- At amount 0.0 an effect's output is its input in value. -/
theorem effectOut_zero {x a : F} (out : F) (hx : x.isFinite = true) (ha : F.feq a F.zero = true) :
    F.feq (effectOut x a out) x = true := by
  have hn : x ≠ .nan := by rintro rfl; simp at hx
  unfold effectOut
  rw [if_pos ha]
  split_ifs with h
  · exact h
  · exact feq_refl_of x hn

/-- A value equal to a finite one is finite. -/
theorem isFinite_of_feq {x y : F} (h : F.feq x y = true) (hy : y.isFinite = true) : x.isFinite = true := by
  cases x with
  | fin s m => rfl
  | nan => simp [F.feq, F.key] at h
  | inf s =>
    cases y with
    | fin t n =>
      have hn := n.isLt
      have hm : magInf = 2139095040 := rfl
      cases s <;> cases t <;> simp [F.feq, F.key] at h <;> omega
    | inf t => simp at hy
    | nan => simp at hy

/-- A value not above and not below one value is equal to it. -/
theorem feq_of_le {x y : F} (h1 : F.le x y = true) (h2 : F.le y x = true) : F.feq x y = true := by
  unfold F.le at h1 h2
  unfold F.feq
  cases hx : F.key x <;> cases hy : F.key y <;> simp_all
  omega

/-- Adding `+0.0` keeps a finite value finite. -/
theorem isFinite_add_zero {x : F} (hx : x.isFinite = true) : (F.add x F.zero).isFinite = true := by
  have h := (add_respects hx (y := F.zero) rfl).2 x hx
  have h0 : toRat F.zero = 0 := by simp [F.zero, toRat_pos, magVal_zero]
  rw [h0, add_zero] at h
  exact isFinite_of_feq (feq_of_le (h.1 le_rfl) (h.2 le_rfl)) hx

/-- An effect's output is finite where its contract speaks. -/
theorem effectOut_finite {x : F} (a out : F) (hx : x.isFinite = true) :
    (effectOut x a out).isFinite = true := by
  unfold effectOut
  split_ifs with h1 h2 h3
  · exact isFinite_of_feq h2 hx
  · exact hx
  · exact h3
  · exact hx

/-- A zero amount is an amount. -/
theorem inUnit_zero {a : F} (h : F.feq a F.zero = true) : inUnit a = true := by
  unfold F.feq at h
  unfold inUnit F.le
  cases hk : F.key a <;> rw [hk] at h <;> simp [F.key, F.zero] at h ⊢
  subst h
  decide

theorem satHalf_zero (P : Params) (x a : F) (hx : x.isFinite = true) (ha : F.feq a F.zero = true) :
    F.feq (satHalf P x a) x = true := by
  unfold satHalf
  rw [hx]
  exact effectOut_zero (P.rawSat x a) hx ha

theorem satHalf_finite (P : Params) (x a : F) (hx : x.isFinite = true) :
    (satHalf P x a).isFinite = true := by
  unfold satHalf
  rw [hx]
  exact effectOut_finite a (P.rawSat x a) hx

/-- `SAT_FN(x, 0.0) = x` in value for finite `x`. -/
theorem satFn_zero (P : Params) (x a : F) (hx : x.isFinite = true) (ha : F.feq a F.zero = true) :
    F.feq (satFn P x a) x = true := by
  unfold satFn
  rw [inUnit_zero ha]
  simp only [Bool.not_true, Bool.false_eq_true, if_false]
  split_ifs with hs h
  · have hh := satHalf_zero P (F.neg x) a (by simpa using hx) ha
    rw [← feq_neg, F.neg_neg] at hh
    unfold sameValue at h
    rw [Bool.or_eq_true] at h
    revert h hh
    unfold F.feq
    cases x with
    | nan => simp at hx
    | inf s => simp at hx
    | fin s m =>
      cases F.neg (satHalf P (F.neg (F.fin s m)) a) <;> cases P.rawSat (F.fin s m) a <;>
        simp [F.key, F.isNan] <;> omega
  · have hh := satHalf_zero P (F.neg x) a (by simpa using hx) ha
    rwa [← feq_neg, F.neg_neg] at hh
  · exact satHalf_zero P x a hx ha

/-- `SAT_FN` is odd in its input, in value. -/
theorem satFn_odd (P : Params) (x a : F) (ha : inUnit a = true) :
    sameValue (satFn P (F.neg x) a) (F.neg (satFn P x a)) = true := by
  by_cases hx : x = .nan
  · subst hx
    simp [satFn, satHalf, F.signBit, F.neg, F.isNan, ha, sameValue]
  have flip : (F.neg x).signBit = !x.signBit := by cases x <;> simp_all [F.neg, F.signBit]
  cases hs : x.signBit
  · unfold satFn
    rw [ha, flip, hs]
    simp only [Bool.not_true, Bool.not_false, if_true, Bool.false_eq_true, if_false, F.neg_neg]
    split_ifs with h
    · exact h
    · exact sameValue_refl _
  · unfold satFn
    rw [ha, flip, hs]
    simp only [Bool.not_true, if_true, Bool.false_eq_true, if_false]
    split_ifs with h
    · rw [sameValue_symm, ← sameValue_neg, F.neg_neg]; exact h
    · rw [F.neg_neg]; exact sameValue_refl _

/-- `SAT_FN` of a finite input at an amount is finite (D41). -/
theorem satFn_finite (P : Params) (x a : F) (hx : x.isFinite = true) (ha : inUnit a = true) :
    (satFn P x a).isFinite = true := by
  have hh := satHalf_finite P (F.neg x) a (by simpa using hx)
  unfold satFn
  rw [ha]
  simp only [Bool.not_true, Bool.false_eq_true, if_false]
  split_ifs with hs h
  · unfold sameValue at h
    rw [Bool.or_eq_true] at h
    rcases h with h | h
    · exact isFinite_of_feq h (by simpa using hh)
    · rw [Bool.and_eq_true, isNan_neg] at h
      obtain ⟨-, h⟩ := h
      cases hc : satHalf P (F.neg x) a <;> rw [hc] at h hh <;> simp [F.isNan] at h hh
  · simpa using hh
  · exact satHalf_finite P x a hx

/-- A non-finite input's output is not finite. -/
theorem carried_not_finite {x : F} (out : F) (hx : x.isFinite = false) : (carried x out).isFinite = false := by
  unfold carried
  split_ifs with h
  · exact hx
  · simpa using h

theorem satHalf_not_finite (P : Params) (x a : F) (hx : x.isFinite = false) :
    (satHalf P x a).isFinite = false := by
  unfold satHalf
  rw [hx]
  simp only [Bool.false_eq_true, if_false]
  split_ifs
  · rfl
  · exact carried_not_finite _ hx

/-- `SAT_FN` of a non-finite input is not finite (R384). -/
theorem satFn_not_finite (P : Params) (x a : F) (hx : x.isFinite = false) (ha : inUnit a = true) :
    (satFn P x a).isFinite = false := by
  have hh := satHalf_not_finite P (F.neg x) a (by simpa using hx)
  unfold satFn
  rw [ha]
  simp only [Bool.not_true, Bool.false_eq_true, if_false]
  split_ifs with hs h
  · unfold sameValue at h
    rw [Bool.or_eq_true] at h
    rcases h with h | h
    · by_contra hc
      rw [Bool.not_eq_false] at hc
      unfold F.feq at h
      have hk : F.feq (F.neg (satHalf P (F.neg x) a)) (P.rawSat x a) = true := by
        unfold F.feq
        revert h
        cases F.key (P.rawSat x a) <;> cases F.key (F.neg (satHalf P (F.neg x) a)) <;> simp [eq_comm]
      have := isFinite_of_feq hk hc
      simp [hh] at this
    · rw [Bool.and_eq_true] at h
      cases hc : P.rawSat x a <;> rw [hc] at h <;> simp [F.isNan] at h ⊢
  · simpa using hh
  · exact satHalf_not_finite P x a hx

/-- `SAT_FN` at an amount is finite exactly for finite input (D41, R384). -/
theorem satFn_isFinite (P : Params) (x a : F) (ha : inUnit a = true) : (satFn P x a).isFinite = x.isFinite := by
  cases hx : x.isFinite
  · exact satFn_not_finite P x a hx ha
  · exact satFn_finite P x a hx ha

/-- A kernel at mix 0.0 returns its input in value, for finite input and state (R307, R309). -/
theorem kernelOut_zero (k : KernelState) (x mix out : F) (hx : x.isFinite = true)
    (hl : lineFinite k.line = true) (hm : F.feq mix F.zero = true) :
    F.feq (kernelOut k x mix out) x = true := by
  unfold kernelOut
  rw [inUnit_zero hm, hx, hl]
  exact effectOut_zero out hx hm

/-- What a kernel answers for finite input and state at a mix: a finite state and a finite sample (D41). -/
theorem kernelCall_finite (raw : KernelState → F → F → KernelStep) (k : KernelState) (x mix : F)
    (hx : x.isFinite = true) (hl : lineFinite k.line = true) (hm : inUnit mix = true) :
    lineFinite (kernelCall raw k x mix).1.line = true ∧ (kernelCall raw k x mix).2.isFinite = true := by
  constructor
  · unfold kernelCall kernelState kernelLine
    rw [hm, hx, hl]
    simp only [if_true, Bool.true_and]
    split_ifs with h
    · exact hl
    · simpa using h
  · unfold kernelCall kernelOut
    rw [hm, hx, hl]
    exact effectOut_finite mix (raw k x mix).out hx

/-- A written non-finite sample stands in the line. -/
theorem lineFinite_set {x : F} (l : Line) (i : Nat) (hx : x.isFinite = false) : lineFinite (l.set i x) = false := by
  have h0 : x ≠ F.zero := by rintro rfl; cases hx
  rw [← Bool.not_eq_true, lineFinite, List.all_eq_true]
  exact fun h => by simpa [hx] using h (i, x) (mem_insertEntry_self h0 l.entries)

/-- What a kernel answers for a non-finite input at a mix: a non-finite state and a non-finite sample (R384). -/
theorem kernelCall_not_finite (raw : KernelState → F → F → KernelStep) (k : KernelState) (x mix : F)
    (hx : x.isFinite = false) (hm : inUnit mix = true) :
    lineFinite (kernelCall raw k x mix).1.line = false ∧ (kernelCall raw k x mix).2.isFinite = false := by
  constructor
  · unfold kernelCall kernelState kernelLine
    rw [hm, hx]
    simp only [if_true, Bool.false_eq_true, if_false]
    split_ifs with h
    · exact lineFinite_set _ _ hx
    · simpa using h
  · unfold kernelCall kernelOut
    rw [hm, hx]
    exact carried_not_finite _ hx

/-! ## NaN patterns (R19) -/

/-- The pattern drawn for a NaN result is the pattern of a NaN. -/
theorem nanPattern_isNan (P : Params) (n : Nat) : F.isNanPattern (nanPattern P n) = true :=
  F.isNanPattern_toNanPattern _

end Sys2Proof.Machine
end

