-- ==== Sys2Proof/Laws/State.lean ====
section
/-!
SUPPORT. One lemma per field per update of State, so that no later proof unfolds a record update, and what
each unit's write reads back as.
-/

namespace Sys2Proof.Machine

open Sys2Proof Config

/-! ## setAr -/

@[simp] theorem State.setAr_sys (s : State) (v : Fin nvMax) (a : ArState) : (s.setAr v a).sys = s.sys := rfl
@[simp] theorem State.setAr_ar (s : State) (v : Fin nvMax) (a : ArState) :
    (s.setAr v a).ar = s.ar.set v a := rfl
@[simp] theorem State.setAr_rfb (s : State) (v : Fin nvMax) (a : ArState) : (s.setAr v a).rfb = s.rfb := rfl
@[simp] theorem State.setAr_env (s : State) (v : Fin nvMax) (a : ArState) : (s.setAr v a).env = s.env := rfl
@[simp] theorem State.setAr_fb (s : State) (v : Fin nvMax) (a : ArState) : (s.setAr v a).fb = s.fb := rfl
@[simp] theorem State.setAr_lfo (s : State) (v : Fin nvMax) (a : ArState) : (s.setAr v a).lfo = s.lfo := rfl
@[simp] theorem State.setAr_fx (s : State) (v : Fin nvMax) (a : ArState) : (s.setAr v a).fx = s.fx := rfl
@[simp] theorem State.setAr_qa (s : State) (v : Fin nvMax) (a : ArState) : (s.setAr v a).qa = s.qa := rfl
@[simp] theorem State.setAr_qc (s : State) (v : Fin nvMax) (a : ArState) : (s.setAr v a).qc = s.qc := rfl
@[simp] theorem State.setAr_cmdA (s : State) (v : Fin nvMax) (a : ArState) : (s.setAr v a).cmdA = s.cmdA := rfl
@[simp] theorem State.setAr_cmdC (s : State) (v : Fin nvMax) (a : ArState) : (s.setAr v a).cmdC = s.cmdC := rfl
@[simp] theorem State.setAr_order (s : State) (v : Fin nvMax) (a : ArState) : (s.setAr v a).order = s.order := rfl
@[simp] theorem State.setAr_turn (s : State) (v : Fin nvMax) (a : ArState) : (s.setAr v a).turn = s.turn := rfl
@[simp] theorem State.setAr_port (s : State) (v : Fin nvMax) (a : ArState) : (s.setAr v a).port = s.port := rfl
@[simp] theorem State.setAr_nanDraws (s : State) (v : Fin nvMax) (a : ArState) : (s.setAr v a).nanDraws = s.nanDraws := rfl
@[simp] theorem State.setAr_settings (s : State) (v : Fin nvMax) (a : ArState) : (s.setAr v a).settings = s.settings := rfl

/-! ## setRfb -/

@[simp] theorem State.setRfb_sys (s : State) (v : Fin nvMax) (b : RfbState) : (s.setRfb v b).sys = s.sys := rfl
@[simp] theorem State.setRfb_ar (s : State) (v : Fin nvMax) (b : RfbState) : (s.setRfb v b).ar = s.ar := rfl
@[simp] theorem State.setRfb_rfb (s : State) (v : Fin nvMax) (b : RfbState) :
    (s.setRfb v b).rfb = s.rfb.set v b := rfl
@[simp] theorem State.setRfb_env (s : State) (v : Fin nvMax) (b : RfbState) : (s.setRfb v b).env = s.env := rfl
@[simp] theorem State.setRfb_fb (s : State) (v : Fin nvMax) (b : RfbState) : (s.setRfb v b).fb = s.fb := rfl
@[simp] theorem State.setRfb_lfo (s : State) (v : Fin nvMax) (b : RfbState) : (s.setRfb v b).lfo = s.lfo := rfl
@[simp] theorem State.setRfb_fx (s : State) (v : Fin nvMax) (b : RfbState) : (s.setRfb v b).fx = s.fx := rfl
@[simp] theorem State.setRfb_qa (s : State) (v : Fin nvMax) (b : RfbState) : (s.setRfb v b).qa = s.qa := rfl
@[simp] theorem State.setRfb_qc (s : State) (v : Fin nvMax) (b : RfbState) : (s.setRfb v b).qc = s.qc := rfl
@[simp] theorem State.setRfb_cmdA (s : State) (v : Fin nvMax) (b : RfbState) : (s.setRfb v b).cmdA = s.cmdA := rfl
@[simp] theorem State.setRfb_cmdC (s : State) (v : Fin nvMax) (b : RfbState) : (s.setRfb v b).cmdC = s.cmdC := rfl
@[simp] theorem State.setRfb_order (s : State) (v : Fin nvMax) (b : RfbState) : (s.setRfb v b).order = s.order := rfl
@[simp] theorem State.setRfb_turn (s : State) (v : Fin nvMax) (b : RfbState) : (s.setRfb v b).turn = s.turn := rfl
@[simp] theorem State.setRfb_port (s : State) (v : Fin nvMax) (b : RfbState) : (s.setRfb v b).port = s.port := rfl
@[simp] theorem State.setRfb_nanDraws (s : State) (v : Fin nvMax) (b : RfbState) : (s.setRfb v b).nanDraws = s.nanDraws := rfl
@[simp] theorem State.setRfb_settings (s : State) (v : Fin nvMax) (b : RfbState) : (s.setRfb v b).settings = s.settings := rfl

/-! ## setEnv -/

@[simp] theorem State.setEnv_sys (s : State) (v : Fin nvMax) (e : Fin 2) (n : EnvState) : (s.setEnv v e n).sys = s.sys := rfl
@[simp] theorem State.setEnv_ar (s : State) (v : Fin nvMax) (e : Fin 2) (n : EnvState) : (s.setEnv v e n).ar = s.ar := rfl
@[simp] theorem State.setEnv_rfb (s : State) (v : Fin nvMax) (e : Fin 2) (n : EnvState) : (s.setEnv v e n).rfb = s.rfb := rfl
@[simp] theorem State.setEnv_env (s : State) (v : Fin nvMax) (e : Fin 2) (n : EnvState) :
    (s.setEnv v e n).env = s.env.set v (s.env[v].set e n) := rfl
@[simp] theorem State.setEnv_fb (s : State) (v : Fin nvMax) (e : Fin 2) (n : EnvState) : (s.setEnv v e n).fb = s.fb := rfl
@[simp] theorem State.setEnv_lfo (s : State) (v : Fin nvMax) (e : Fin 2) (n : EnvState) : (s.setEnv v e n).lfo = s.lfo := rfl
@[simp] theorem State.setEnv_fx (s : State) (v : Fin nvMax) (e : Fin 2) (n : EnvState) : (s.setEnv v e n).fx = s.fx := rfl
@[simp] theorem State.setEnv_qa (s : State) (v : Fin nvMax) (e : Fin 2) (n : EnvState) : (s.setEnv v e n).qa = s.qa := rfl
@[simp] theorem State.setEnv_qc (s : State) (v : Fin nvMax) (e : Fin 2) (n : EnvState) : (s.setEnv v e n).qc = s.qc := rfl
@[simp] theorem State.setEnv_cmdA (s : State) (v : Fin nvMax) (e : Fin 2) (n : EnvState) : (s.setEnv v e n).cmdA = s.cmdA := rfl
@[simp] theorem State.setEnv_cmdC (s : State) (v : Fin nvMax) (e : Fin 2) (n : EnvState) : (s.setEnv v e n).cmdC = s.cmdC := rfl
@[simp] theorem State.setEnv_order (s : State) (v : Fin nvMax) (e : Fin 2) (n : EnvState) : (s.setEnv v e n).order = s.order := rfl
@[simp] theorem State.setEnv_turn (s : State) (v : Fin nvMax) (e : Fin 2) (n : EnvState) : (s.setEnv v e n).turn = s.turn := rfl
@[simp] theorem State.setEnv_port (s : State) (v : Fin nvMax) (e : Fin 2) (n : EnvState) : (s.setEnv v e n).port = s.port := rfl
@[simp] theorem State.setEnv_nanDraws (s : State) (v : Fin nvMax) (e : Fin 2) (n : EnvState) : (s.setEnv v e n).nanDraws = s.nanDraws := rfl
@[simp] theorem State.setEnv_settings (s : State) (v : Fin nvMax) (e : Fin 2) (n : EnvState) : (s.setEnv v e n).settings = s.settings := rfl

/-! ## setFb -/

@[simp] theorem State.setFb_sys (s : State) (v : Fin nvMax) (b : FbState) : (s.setFb v b).sys = s.sys := rfl
@[simp] theorem State.setFb_ar (s : State) (v : Fin nvMax) (b : FbState) : (s.setFb v b).ar = s.ar := rfl
@[simp] theorem State.setFb_rfb (s : State) (v : Fin nvMax) (b : FbState) : (s.setFb v b).rfb = s.rfb := rfl
@[simp] theorem State.setFb_env (s : State) (v : Fin nvMax) (b : FbState) : (s.setFb v b).env = s.env := rfl
@[simp] theorem State.setFb_fb (s : State) (v : Fin nvMax) (b : FbState) :
    (s.setFb v b).fb = s.fb.set v b := rfl
@[simp] theorem State.setFb_lfo (s : State) (v : Fin nvMax) (b : FbState) : (s.setFb v b).lfo = s.lfo := rfl
@[simp] theorem State.setFb_fx (s : State) (v : Fin nvMax) (b : FbState) : (s.setFb v b).fx = s.fx := rfl
@[simp] theorem State.setFb_qa (s : State) (v : Fin nvMax) (b : FbState) : (s.setFb v b).qa = s.qa := rfl
@[simp] theorem State.setFb_qc (s : State) (v : Fin nvMax) (b : FbState) : (s.setFb v b).qc = s.qc := rfl
@[simp] theorem State.setFb_cmdA (s : State) (v : Fin nvMax) (b : FbState) : (s.setFb v b).cmdA = s.cmdA := rfl
@[simp] theorem State.setFb_cmdC (s : State) (v : Fin nvMax) (b : FbState) : (s.setFb v b).cmdC = s.cmdC := rfl
@[simp] theorem State.setFb_order (s : State) (v : Fin nvMax) (b : FbState) : (s.setFb v b).order = s.order := rfl
@[simp] theorem State.setFb_turn (s : State) (v : Fin nvMax) (b : FbState) : (s.setFb v b).turn = s.turn := rfl
@[simp] theorem State.setFb_port (s : State) (v : Fin nvMax) (b : FbState) : (s.setFb v b).port = s.port := rfl
@[simp] theorem State.setFb_nanDraws (s : State) (v : Fin nvMax) (b : FbState) : (s.setFb v b).nanDraws = s.nanDraws := rfl
@[simp] theorem State.setFb_settings (s : State) (v : Fin nvMax) (b : FbState) : (s.setFb v b).settings = s.settings := rfl

/-! ## setLfo -/

@[simp] theorem State.setLfo_sys (s : State) (j : Fin nlfo) (l : LfoState) : (s.setLfo j l).sys = s.sys := rfl
@[simp] theorem State.setLfo_ar (s : State) (j : Fin nlfo) (l : LfoState) : (s.setLfo j l).ar = s.ar := rfl
@[simp] theorem State.setLfo_rfb (s : State) (j : Fin nlfo) (l : LfoState) : (s.setLfo j l).rfb = s.rfb := rfl
@[simp] theorem State.setLfo_env (s : State) (j : Fin nlfo) (l : LfoState) : (s.setLfo j l).env = s.env := rfl
@[simp] theorem State.setLfo_fb (s : State) (j : Fin nlfo) (l : LfoState) : (s.setLfo j l).fb = s.fb := rfl
@[simp] theorem State.setLfo_lfo (s : State) (j : Fin nlfo) (l : LfoState) :
    (s.setLfo j l).lfo = s.lfo.set j l := rfl
@[simp] theorem State.setLfo_fx (s : State) (j : Fin nlfo) (l : LfoState) : (s.setLfo j l).fx = s.fx := rfl
@[simp] theorem State.setLfo_qa (s : State) (j : Fin nlfo) (l : LfoState) : (s.setLfo j l).qa = s.qa := rfl
@[simp] theorem State.setLfo_qc (s : State) (j : Fin nlfo) (l : LfoState) : (s.setLfo j l).qc = s.qc := rfl
@[simp] theorem State.setLfo_cmdA (s : State) (j : Fin nlfo) (l : LfoState) : (s.setLfo j l).cmdA = s.cmdA := rfl
@[simp] theorem State.setLfo_cmdC (s : State) (j : Fin nlfo) (l : LfoState) : (s.setLfo j l).cmdC = s.cmdC := rfl
@[simp] theorem State.setLfo_order (s : State) (j : Fin nlfo) (l : LfoState) : (s.setLfo j l).order = s.order := rfl
@[simp] theorem State.setLfo_turn (s : State) (j : Fin nlfo) (l : LfoState) : (s.setLfo j l).turn = s.turn := rfl
@[simp] theorem State.setLfo_port (s : State) (j : Fin nlfo) (l : LfoState) : (s.setLfo j l).port = s.port := rfl
@[simp] theorem State.setLfo_nanDraws (s : State) (j : Fin nlfo) (l : LfoState) : (s.setLfo j l).nanDraws = s.nanDraws := rfl
@[simp] theorem State.setLfo_settings (s : State) (j : Fin nlfo) (l : LfoState) : (s.setLfo j l).settings = s.settings := rfl

/-! ## setFx -/

@[simp] theorem State.setFx_sys (s : State) (x : FxState) : (s.setFx x).sys = s.sys := rfl
@[simp] theorem State.setFx_ar (s : State) (x : FxState) : (s.setFx x).ar = s.ar := rfl
@[simp] theorem State.setFx_rfb (s : State) (x : FxState) : (s.setFx x).rfb = s.rfb := rfl
@[simp] theorem State.setFx_env (s : State) (x : FxState) : (s.setFx x).env = s.env := rfl
@[simp] theorem State.setFx_fb (s : State) (x : FxState) : (s.setFx x).fb = s.fb := rfl
@[simp] theorem State.setFx_lfo (s : State) (x : FxState) : (s.setFx x).lfo = s.lfo := rfl
@[simp] theorem State.setFx_fx (s : State) (x : FxState) :
    (s.setFx x).fx = x := rfl
@[simp] theorem State.setFx_qa (s : State) (x : FxState) : (s.setFx x).qa = s.qa := rfl
@[simp] theorem State.setFx_qc (s : State) (x : FxState) : (s.setFx x).qc = s.qc := rfl
@[simp] theorem State.setFx_cmdA (s : State) (x : FxState) : (s.setFx x).cmdA = s.cmdA := rfl
@[simp] theorem State.setFx_cmdC (s : State) (x : FxState) : (s.setFx x).cmdC = s.cmdC := rfl
@[simp] theorem State.setFx_order (s : State) (x : FxState) : (s.setFx x).order = s.order := rfl
@[simp] theorem State.setFx_turn (s : State) (x : FxState) : (s.setFx x).turn = s.turn := rfl
@[simp] theorem State.setFx_port (s : State) (x : FxState) : (s.setFx x).port = s.port := rfl
@[simp] theorem State.setFx_nanDraws (s : State) (x : FxState) : (s.setFx x).nanDraws = s.nanDraws := rfl
@[simp] theorem State.setFx_settings (s : State) (x : FxState) : (s.setFx x).settings = s.settings := rfl

/-! ## pushWord -/

@[simp] theorem State.pushWord_sys (s : State) (w : Word) : (s.pushWord w).sys = s.sys := by
  unfold State.pushWord; cases s.port <;> rfl
@[simp] theorem State.pushWord_ar (s : State) (w : Word) : (s.pushWord w).ar = s.ar := by
  unfold State.pushWord; cases s.port <;> rfl
@[simp] theorem State.pushWord_rfb (s : State) (w : Word) : (s.pushWord w).rfb = s.rfb := by
  unfold State.pushWord; cases s.port <;> rfl
@[simp] theorem State.pushWord_env (s : State) (w : Word) : (s.pushWord w).env = s.env := by
  unfold State.pushWord; cases s.port <;> rfl
@[simp] theorem State.pushWord_fb (s : State) (w : Word) : (s.pushWord w).fb = s.fb := by
  unfold State.pushWord; cases s.port <;> rfl
@[simp] theorem State.pushWord_lfo (s : State) (w : Word) : (s.pushWord w).lfo = s.lfo := by
  unfold State.pushWord; cases s.port <;> rfl
@[simp] theorem State.pushWord_fx (s : State) (w : Word) : (s.pushWord w).fx = s.fx := by
  unfold State.pushWord; cases s.port <;> rfl
@[simp] theorem State.pushWord_cmdA (s : State) (w : Word) : (s.pushWord w).cmdA = s.cmdA := by
  unfold State.pushWord; cases s.port <;> rfl
@[simp] theorem State.pushWord_cmdC (s : State) (w : Word) : (s.pushWord w).cmdC = s.cmdC := by
  unfold State.pushWord; cases s.port <;> rfl
@[simp] theorem State.pushWord_order (s : State) (w : Word) : (s.pushWord w).order = s.order := by
  unfold State.pushWord; cases s.port <;> rfl
@[simp] theorem State.pushWord_turn (s : State) (w : Word) : (s.pushWord w).turn = s.turn := by
  unfold State.pushWord; cases s.port <;> rfl
@[simp] theorem State.pushWord_port (s : State) (w : Word) : (s.pushWord w).port = s.port := by
  unfold State.pushWord; cases s.port <;> rfl
@[simp] theorem State.pushWord_nanDraws (s : State) (w : Word) : (s.pushWord w).nanDraws = s.nanDraws := by
  unfold State.pushWord; cases s.port <;> rfl
@[simp] theorem State.pushWord_settings (s : State) (w : Word) : (s.pushWord w).settings = s.settings := by
  unfold State.pushWord; cases s.port <;> rfl

/-! ## countNan -/

@[simp] theorem State.countNan_sys (s : State) (x : F) : (s.countNan x).sys = s.sys := by
  unfold State.countNan; split <;> rfl
@[simp] theorem State.countNan_ar (s : State) (x : F) : (s.countNan x).ar = s.ar := by
  unfold State.countNan; split <;> rfl
@[simp] theorem State.countNan_rfb (s : State) (x : F) : (s.countNan x).rfb = s.rfb := by
  unfold State.countNan; split <;> rfl
@[simp] theorem State.countNan_env (s : State) (x : F) : (s.countNan x).env = s.env := by
  unfold State.countNan; split <;> rfl
@[simp] theorem State.countNan_fb (s : State) (x : F) : (s.countNan x).fb = s.fb := by
  unfold State.countNan; split <;> rfl
@[simp] theorem State.countNan_lfo (s : State) (x : F) : (s.countNan x).lfo = s.lfo := by
  unfold State.countNan; split <;> rfl
@[simp] theorem State.countNan_fx (s : State) (x : F) : (s.countNan x).fx = s.fx := by
  unfold State.countNan; split <;> rfl
@[simp] theorem State.countNan_qa (s : State) (x : F) : (s.countNan x).qa = s.qa := by
  unfold State.countNan; split <;> rfl
@[simp] theorem State.countNan_qc (s : State) (x : F) : (s.countNan x).qc = s.qc := by
  unfold State.countNan; split <;> rfl
@[simp] theorem State.countNan_cmdA (s : State) (x : F) : (s.countNan x).cmdA = s.cmdA := by
  unfold State.countNan; split <;> rfl
@[simp] theorem State.countNan_cmdC (s : State) (x : F) : (s.countNan x).cmdC = s.cmdC := by
  unfold State.countNan; split <;> rfl
@[simp] theorem State.countNan_order (s : State) (x : F) : (s.countNan x).order = s.order := by
  unfold State.countNan; split <;> rfl
@[simp] theorem State.countNan_turn (s : State) (x : F) : (s.countNan x).turn = s.turn := by
  unfold State.countNan; split <;> rfl
@[simp] theorem State.countNan_port (s : State) (x : F) : (s.countNan x).port = s.port := by
  unfold State.countNan; split <;> rfl
@[simp] theorem State.countNan_settings (s : State) (x : F) : (s.countNan x).settings = s.settings := by
  unfold State.countNan; split <;> rfl

/-! ## pushReal -/

@[simp] theorem State.pushReal_sys (P : Params) (s : State) (x : F) : (s.pushReal P x).sys = s.sys := by
  simp [State.pushReal]
@[simp] theorem State.pushReal_ar (P : Params) (s : State) (x : F) : (s.pushReal P x).ar = s.ar := by
  simp [State.pushReal]
@[simp] theorem State.pushReal_rfb (P : Params) (s : State) (x : F) : (s.pushReal P x).rfb = s.rfb := by
  simp [State.pushReal]
@[simp] theorem State.pushReal_env (P : Params) (s : State) (x : F) : (s.pushReal P x).env = s.env := by
  simp [State.pushReal]
@[simp] theorem State.pushReal_fb (P : Params) (s : State) (x : F) : (s.pushReal P x).fb = s.fb := by
  simp [State.pushReal]
@[simp] theorem State.pushReal_lfo (P : Params) (s : State) (x : F) : (s.pushReal P x).lfo = s.lfo := by
  simp [State.pushReal]
@[simp] theorem State.pushReal_fx (P : Params) (s : State) (x : F) : (s.pushReal P x).fx = s.fx := by
  simp [State.pushReal]
@[simp] theorem State.pushReal_cmdA (P : Params) (s : State) (x : F) : (s.pushReal P x).cmdA = s.cmdA := by
  simp [State.pushReal]
@[simp] theorem State.pushReal_cmdC (P : Params) (s : State) (x : F) : (s.pushReal P x).cmdC = s.cmdC := by
  simp [State.pushReal]
@[simp] theorem State.pushReal_order (P : Params) (s : State) (x : F) : (s.pushReal P x).order = s.order := by
  simp [State.pushReal]
@[simp] theorem State.pushReal_turn (P : Params) (s : State) (x : F) : (s.pushReal P x).turn = s.turn := by
  simp [State.pushReal]
@[simp] theorem State.pushReal_port (P : Params) (s : State) (x : F) : (s.pushReal P x).port = s.port := by
  simp [State.pushReal]
@[simp] theorem State.pushReal_settings (P : Params) (s : State) (x : F) : (s.pushReal P x).settings = s.settings := by
  simp [State.pushReal]

/-! ## clearSignals and markAllDirty -/

@[simp] theorem State.clearSignals_sys (s : State) : s.clearSignals.sys = s.sys := by
  simp only [State.clearSignals]
@[simp] theorem State.clearSignals_ar (s : State) : s.clearSignals.ar = Vector.ofFn fun v => s.ar[v].clearPhases := by
  simp only [State.clearSignals]
@[simp] theorem State.clearSignals_rfb (s : State) : s.clearSignals.rfb = Vector.ofFn fun v => s.rfb[v].clear := by
  simp only [State.clearSignals]
@[simp] theorem State.clearSignals_env (s : State) : s.clearSignals.env = Vector.ofFn fun v => Vector.ofFn fun e => s.env[v][e].clear := by
  simp only [State.clearSignals]
@[simp] theorem State.clearSignals_fb (s : State) : s.clearSignals.fb = Vector.ofFn fun v => s.fb[v].clear := by
  simp only [State.clearSignals]
@[simp] theorem State.clearSignals_lfo (s : State) : s.clearSignals.lfo = Vector.ofFn fun j => s.lfo[j].clear := by
  simp only [State.clearSignals]
@[simp] theorem State.clearSignals_fx (s : State) : s.clearSignals.fx = s.fx.clear := by
  simp only [State.clearSignals]
@[simp] theorem State.clearSignals_qa (s : State) : s.clearSignals.qa = s.qa := by
  simp only [State.clearSignals]
@[simp] theorem State.clearSignals_qc (s : State) : s.clearSignals.qc = s.qc := by
  simp only [State.clearSignals]
@[simp] theorem State.clearSignals_cmdA (s : State) : s.clearSignals.cmdA = s.cmdA := by
  simp only [State.clearSignals]
@[simp] theorem State.clearSignals_cmdC (s : State) : s.clearSignals.cmdC = s.cmdC := by
  simp only [State.clearSignals]
@[simp] theorem State.clearSignals_order (s : State) : s.clearSignals.order = s.order := by
  simp only [State.clearSignals]
@[simp] theorem State.clearSignals_turn (s : State) : s.clearSignals.turn = s.turn := by
  simp only [State.clearSignals]
@[simp] theorem State.clearSignals_port (s : State) : s.clearSignals.port = s.port := by
  simp only [State.clearSignals]
@[simp] theorem State.clearSignals_nanDraws (s : State) : s.clearSignals.nanDraws = s.nanDraws := by
  simp only [State.clearSignals]
@[simp] theorem State.clearSignals_settings (s : State) : s.clearSignals.settings = s.settings := by
  simp only [State.clearSignals]
@[simp] theorem State.markAllDirty_sys (s : State) : s.markAllDirty.sys = s.sys := by
  simp only [State.markAllDirty]
@[simp] theorem State.markAllDirty_ar (s : State) : s.markAllDirty.ar = Vector.ofFn fun v => s.ar[v].markDirty := by
  simp only [State.markAllDirty]
@[simp] theorem State.markAllDirty_rfb (s : State) : s.markAllDirty.rfb = Vector.ofFn fun v => s.rfb[v].markDirty := by
  simp only [State.markAllDirty]
@[simp] theorem State.markAllDirty_env (s : State) : s.markAllDirty.env = Vector.ofFn fun v => Vector.ofFn fun e => s.env[v][e].markDirty := by
  simp only [State.markAllDirty]
@[simp] theorem State.markAllDirty_fb (s : State) : s.markAllDirty.fb = Vector.ofFn fun v => s.fb[v].markDirty := by
  simp only [State.markAllDirty]
@[simp] theorem State.markAllDirty_lfo (s : State) : s.markAllDirty.lfo = Vector.ofFn fun j => s.lfo[j].markDirty := by
  simp only [State.markAllDirty]
@[simp] theorem State.markAllDirty_fx (s : State) : s.markAllDirty.fx = s.fx := by
  simp only [State.markAllDirty]
@[simp] theorem State.markAllDirty_qa (s : State) : s.markAllDirty.qa = s.qa := by
  simp only [State.markAllDirty]
@[simp] theorem State.markAllDirty_qc (s : State) : s.markAllDirty.qc = s.qc := by
  simp only [State.markAllDirty]
@[simp] theorem State.markAllDirty_cmdA (s : State) : s.markAllDirty.cmdA = s.cmdA := by
  simp only [State.markAllDirty]
@[simp] theorem State.markAllDirty_cmdC (s : State) : s.markAllDirty.cmdC = s.cmdC := by
  simp only [State.markAllDirty]
@[simp] theorem State.markAllDirty_order (s : State) : s.markAllDirty.order = s.order := by
  simp only [State.markAllDirty]
@[simp] theorem State.markAllDirty_turn (s : State) : s.markAllDirty.turn = s.turn := by
  simp only [State.markAllDirty]
@[simp] theorem State.markAllDirty_port (s : State) : s.markAllDirty.port = s.port := by
  simp only [State.markAllDirty]
@[simp] theorem State.markAllDirty_nanDraws (s : State) : s.markAllDirty.nanDraws = s.nanDraws := by
  simp only [State.markAllDirty]
@[simp] theorem State.markAllDirty_settings (s : State) : s.markAllDirty.settings = s.settings := by
  simp only [State.markAllDirty]

/-! ## accept -/

@[simp] theorem State.accept_sys (s : State) (p : Port) (rest : List Word) :
    (s.accept p rest).sys = s.sys := by cases p <;> rfl
@[simp] theorem State.accept_ar (s : State) (p : Port) (rest : List Word) :
    (s.accept p rest).ar = s.ar := by cases p <;> rfl
@[simp] theorem State.accept_rfb (s : State) (p : Port) (rest : List Word) :
    (s.accept p rest).rfb = s.rfb := by cases p <;> rfl
@[simp] theorem State.accept_env (s : State) (p : Port) (rest : List Word) :
    (s.accept p rest).env = s.env := by cases p <;> rfl
@[simp] theorem State.accept_fb (s : State) (p : Port) (rest : List Word) :
    (s.accept p rest).fb = s.fb := by cases p <;> rfl
@[simp] theorem State.accept_lfo (s : State) (p : Port) (rest : List Word) :
    (s.accept p rest).lfo = s.lfo := by cases p <;> rfl
@[simp] theorem State.accept_fx (s : State) (p : Port) (rest : List Word) :
    (s.accept p rest).fx = s.fx := by cases p <;> rfl
@[simp] theorem State.accept_qa (s : State) (p : Port) (rest : List Word) :
    (s.accept p rest).qa = s.qa := by cases p <;> rfl
@[simp] theorem State.accept_qc (s : State) (p : Port) (rest : List Word) :
    (s.accept p rest).qc = s.qc := by cases p <;> rfl
@[simp] theorem State.accept_order (s : State) (p : Port) (rest : List Word) :
    (s.accept p rest).order = if s.order.head? = some p then s.order.tail else s.order := by cases p <;> rfl
@[simp] theorem State.accept_turn (s : State) (p : Port) (rest : List Word) :
    (s.accept p rest).turn = s.turn + 1 := by cases p <;> rfl
@[simp] theorem State.accept_port (s : State) (p : Port) (rest : List Word) :
    (s.accept p rest).port = p := by cases p <;> rfl
@[simp] theorem State.accept_nanDraws (s : State) (p : Port) (rest : List Word) :
    (s.accept p rest).nanDraws = s.nanDraws := by cases p <;> rfl
@[simp] theorem State.accept_settings (s : State) (p : Port) (rest : List Word) :
    (s.accept p rest).settings = s.settings := by cases p <;> rfl

/-! ## Reading a unit back after a write -/

theorem State.setAr_get (s : State) (v w : Fin nvMax) (a : ArState) :
    (s.setAr v a).ar[w] = if v = w then a else s.ar[w] := by
  simp [Vector.getElem_set, Fin.ext_iff]

theorem State.setRfb_get (s : State) (v w : Fin nvMax) (b : RfbState) :
    (s.setRfb v b).rfb[w] = if v = w then b else s.rfb[w] := by
  simp [Vector.getElem_set, Fin.ext_iff]

theorem State.setEnv_get (s : State) (v w : Fin nvMax) (e d : Fin 2) (n : EnvState) :
    (s.setEnv v e n).env[w][d] = if v = w ∧ e = d then n else s.env[w][d] := by
  by_cases h : v = w
  · subst h
    simp [Vector.getElem_set, Fin.ext_iff]
  · have h' : (v : Nat) ≠ w := fun c => h (Fin.ext c)
    simp [h, h']

theorem State.setFb_get (s : State) (v w : Fin nvMax) (b : FbState) :
    (s.setFb v b).fb[w] = if v = w then b else s.fb[w] := by
  simp [Vector.getElem_set, Fin.ext_iff]

theorem State.setLfo_get (s : State) (i j : Fin nlfo) (l : LfoState) :
    (s.setLfo i l).lfo[j] = if i = j then l else s.lfo[j] := by
  simp [Vector.getElem_set, Fin.ext_iff]

end Sys2Proof.Machine
end

