-- ==== Sys2Proof/Laws/Ops.lean ====
section
/-!
SUPPORT. One lemma per shared operation that says once what it does: the result channel, input validation,
the model store, the flags and the units' resets.
-/

namespace Sys2Proof.Machine

open Sys2Proof Config

/-! ## The result channel (R88) -/

/-- The pattern appended for a value is a pattern of that value. -/
theorem isPatternOf_bitsOr (P : Params) (n : Nat) (x : F) :
    IsPatternOf (F.bitsOr (nanPattern P n) x) x := by
  by_cases h : x = .nan
  · subst h
    exact Or.inr ⟨rfl, nanPattern_isNan P n⟩
  · exact Or.inl ⟨h, F.asF_bitsOr _ x h⟩

/-- `pushWord` appends the word to the issuing port's queue and does nothing else. -/
theorem pushWord_appended (s : State) (w : Word) : AppendedWord s (s.pushWord w) w := by
  unfold AppendedWord State.pushWord
  cases h : s.port <;> rfl

/-- `pushReal` returns the value and does nothing else. -/
theorem pushReal_returned (P : Params) (s : State) (x : F) : Returned s (s.pushReal P x) x := by
  refine ⟨F.bitsOr (nanPattern P s.nanDraws) x, isPatternOf_bitsOr P _ x, ?_⟩
  unfold AppendedWord State.pushReal State.countNan State.pushWord
  cases s.port <;> cases F.isNan x <;> rfl

/-- Returning a value draws a NaN pattern exactly when the value is a NaN. -/
theorem pushReal_nanDraws (P : Params) (s : State) (x : F) :
    (s.pushReal P x).nanDraws = if x.isNan then s.nanDraws + 1 else s.nanDraws := by
  unfold State.pushReal State.countNan
  cases F.isNan x <;> simp

/-- The issuing port's queue after `pushReal`. -/
theorem pushReal_results (P : Params) (s : State) (x : F) (p : Port) :
    (s.pushReal P x).results p =
      if s.port = p then s.results p ++ [F.bitsOr (nanPattern P s.nanDraws) x] else s.results p := by
  unfold State.pushReal State.countNan State.pushWord State.results
  cases s.port <;> cases p <;> cases F.isNan x <;> rfl

/-- The issuing port's queue after `pushWord`. -/
theorem pushWord_results (s : State) (w : Word) (p : Port) :
    (s.pushWord w).results p = if s.port = p then s.results p ++ [w] else s.results p := by
  unfold State.pushWord State.results
  cases s.port <;> cases p <;> rfl

/-! ## Input validation (R22, R36) -/

/-- A validated value is in its row, where the row's default is. -/
theorem clampv_inRow (x : F) (r : Range) (hl : r.lo.isFinite = true) (hh : r.hi.isFinite = true)
    (hlh : F.le r.lo r.hi = true) (hd : inRow r r.dflt = true) : inRow r (clampv x r) = true := by
  unfold clampv
  split_ifs with h1 h2 h3
  · exact hd
  · simp [inRow, hl, F.le_refl_of _ (F.ne_nan_of_le hlh).1, hlh]
  · simp [inRow, hh, F.le_refl_of _ (F.ne_nan_of_le hlh).2, hlh]
  · have hx : x.isFinite = true := by simpa using h1
    have hn : x ≠ .nan := by rintro rfl; simp at hx
    have h2' : F.lt x r.lo = false := by simpa using h2
    have h3' : F.lt r.hi x = false := by simpa [F.gt] using h3
    simp [inRow, hx, F.le_of_not_lt hn (F.ne_nan_of_le hlh).1 h2',
      F.le_of_not_lt (F.ne_nan_of_le hlh).2 hn h3']

/-- A validated control operand is in its row, at settings a machine may have (R34, R36). -/
theorem control_inRange {T : Settings} (hT : SettingsOk T) (c : Control) (w : Word) :
    inRange T c (control T c w) = true := by
  have h := hT.rows c
  simp only [rowProper, Bool.and_eq_true] at h
  exact clampv_inRow _ _ h.1.1.1 h.1.1.2 h.1.2 h.2

/-! ## The two halves of an index (R27) -/

@[simp] theorem partialOf_val (i : Fin nosc) : (partialOf i).val = i.val % np := rfl
@[simp] theorem isPrimary_eq_true (i : Fin nosc) : isPrimary i = true ↔ i.val < np := by
  simp [isPrimary]

/-! ## Model stores (R39, R152, R161, R201) -/

@[simp] theorem loadedModel_valid (T : Settings) (ops : List Word) : (loadedModel T ops).valid = true := rfl
@[simp] theorem loadedModel_amp (T : Settings) (ops : List Word) (k : Fin np) :
    (loadedModel T ops).amp[k] = control T .modelAmp (operandAt ops k.val) := by
  simp [loadedModel]
@[simp] theorem loadedModel_off (T : Settings) (ops : List Word) (k : Fin np) :
    (loadedModel T ops).off[k] = control T .modelOff (operandAt ops (np + k.val)) := by
  simp [loadedModel]

/-- A slot never loaded reads as zeros (R152). -/
theorem modelEntry_invalid (m : ModelState) (key : ModelState → Vector F np) (k : Fin np)
    (h : m.valid = false) : modelEntry m key k = F.zero := by
  simp [modelEntry, h]

/-- A loaded slot reads as its entry (R152). -/
theorem modelEntry_valid (m : ModelState) (key : ModelState → Vector F np) (k : Fin np)
    (h : m.valid = true) : modelEntry m key k = (key m)[k] := by
  simp [modelEntry, h]

/-! ## Flags and resets, field by field (R32, R33, R403) -/

@[simp] theorem ArState.markDirty_dirty (a : ArState) : a.markDirty.dirty = true := rfl
@[simp] theorem RfbState.markDirty_dirty (b : RfbState) : b.markDirty.dirty = true := rfl
@[simp] theorem EnvState.markDirty_dirty (n : EnvState) : n.markDirty.dirty = true := rfl
@[simp] theorem FbState.markDirty_dirty (b : FbState) : b.markDirty.dirty = true := rfl
@[simp] theorem LfoState.markDirty_dirty (l : LfoState) : l.markDirty.dirty = true := rfl

/-- Clearing the phases of a resonator moves nothing else. -/
theorem ArState.clearPhases_get (a : ArState) (i : Fin nosc) :
    a.clearPhases.osc[i] = { a.osc[i] with phase := F.zero } := by
  simp [ArState.clearPhases, OscState.clearPhase]

/-- Clearing the memories of a bank moves nothing else. -/
theorem RfbState.clear_get (b : RfbState) (i : Fin nosc) :
    b.clear.filt[i] = { b.filt[i] with z1 := F.zero, z2 := F.zero } := by
  simp [RfbState.clear, FiltState.clear]

/-- Marking a flag and clearing signal state are each idempotent (R89). -/
theorem ArState.markDirty_idem (a : ArState) : a.markDirty.markDirty = a.markDirty := rfl
theorem ArState.clearPhases_idem (a : ArState) : a.clearPhases.clearPhases = a.clearPhases := by
  simp [ArState.clearPhases, OscState.clearPhase]
theorem RfbState.clear_idem (b : RfbState) : b.clear.clear = b.clear := by
  simp [RfbState.clear, FiltState.clear]

/-! ## Lines at power-on (R400; assumption 14) -/

/-- Power-on lists nothing in any line, so the canonical form holds. -/
theorem FxState.powerOn_lines_canonical (T : Settings) :
    (FxState.powerOn T).dly.wf T.dlyLen = true ∧ (FxState.powerOn T).ch.line.canonical = true ∧
      (FxState.powerOn T).rv.line.canonical = true := ⟨rfl, rfl, rfl⟩

/-- The delay writes inside its line and keeps it canonical (R308). -/
theorem delayStep_wf {T : Settings} (x : FxState) (s3 : F) (hw : x.dlyW < T.dlyLen)
    (h : x.dly.wf T.dlyLen = true) : (delayStep T x s3).dly.wf T.dlyLen = true := Line.set_wf s3 hw h

/-- The delay's tap is between one and `DLY_LEN - 1` samples back (R308). -/
theorem delayLength_bounds {T : Settings} (fs time : F) (hT : 1 < T.dlyLen) :
    1 ≤ delayLength T fs time ∧ delayLength T fs time < T.dlyLen := by
  unfold delayLength
  omega

/-- The write index goes round its line (R308, R382 d). -/
theorem delayStep_dlyW (T : Settings) (x : FxState) (s3 : F) :
    (delayStep T x s3).dlyW = (x.dlyW + 1) % T.dlyLen := rfl

/-- The write index stays inside its line (R308, R382 d). -/
theorem delayStep_dlyW_lt {T : Settings} (x : FxState) (s3 : F) (hw : x.dlyW < T.dlyLen) :
    (delayStep T x s3).dlyW < T.dlyLen := Nat.mod_lt _ (Nat.lt_of_le_of_lt (Nat.zero_le _) hw)

/-! ## Places beyond the voice slots (R12; assumption 30) -/

/-- What SYS.RESET and SYS.PREPARE do to every slot leaves a unit after power-on as it is. -/
theorem ArState.clear_powerOn (T : Settings) : (ArState.powerOn T).clearPhases = ArState.powerOn T := by
  simp [ArState.powerOn, ArState.clearPhases, OscState.clearPhase, OscState.reset]
  exact Vector.ext fun i hi => by simp
theorem RfbState.clear_powerOn (T : Settings) : (RfbState.powerOn T).clear = RfbState.powerOn T := by
  simp [RfbState.powerOn, RfbState.clear, FiltState.clear, FiltState.reset]
  exact Vector.ext fun i hi => by simp
theorem EnvState.clear_powerOn (T : Settings) : (EnvState.powerOn T).clear = EnvState.powerOn T := rfl
theorem FbState.clear_powerOn (T : Settings) : (FbState.powerOn T).clear = FbState.powerOn T := rfl
theorem ArState.markDirty_powerOn (T : Settings) : (ArState.powerOn T).markDirty = ArState.powerOn T := rfl
theorem RfbState.markDirty_powerOn (T : Settings) : (RfbState.powerOn T).markDirty = RfbState.powerOn T := rfl
theorem EnvState.markDirty_powerOn (T : Settings) : (EnvState.powerOn T).markDirty = EnvState.powerOn T := rfl
theorem FbState.markDirty_powerOn (T : Settings) : (FbState.powerOn T).markDirty = FbState.powerOn T := rfl

/-! ## Oscillators (R133, R134) -/

@[simp] theorem poAssign_phase (fs : F) (o : OscState) (f : F) : (poAssign fs o f).phase = o.phase := rfl
@[simp] theorem poAssign_freq (fs : F) (o : OscState) (f : F) : (poAssign fs o f).freq = f := rfl
@[simp] theorem poAssign_inc (fs : F) (o : OscState) (f : F) : (poAssign fs o f).inc = F.div f fs := rfl
@[simp] theorem poAdvance_freq (o : OscState) : (poAdvance o).freq = o.freq := rfl
@[simp] theorem poAdvance_inc (o : OscState) : (poAdvance o).inc = o.inc := rfl

end Sys2Proof.Machine
end

