-- ==== Sys2Proof/Laws/PerInstr.lean ====
section
/-!
SUPPORT. Statements about every command as syntax, one lemma per constructor: its fields fit the header,
it has the operand words its row says, its parts build it again, and nothing in its header is refused.
-/

namespace Sys2Proof.Laws

open Sys2Proof Config

/-! ## FieldsFit -/

namespace FieldsFit

/-- The `inst` field of a command fits 8 bits and its `idx` field 16 (R101, R105, R106). -/
def Statement (i : Instr) : Prop :=
  (parts i).inst < 2 ^ 8 ∧ (parts i).idx < 2 ^ 16

theorem sysReset : Statement .sysReset := ⟨zero_fits_inst, zero_fits_idx⟩
theorem sysPrepare (blk : BitVec 16) (fs : Word) : Statement (.sysPrepare blk fs) :=
  ⟨zero_fits_inst, blk.isLt⟩
theorem arReset (v : Voice) : Statement (.arReset v) := ⟨fits_inst v nvMax_fits, zero_fits_idx⟩
theorem arLoadModel (v : Voice) (s : SlotIdx) (ops : List Word) : Statement (.arLoadModel v s ops) :=
  ⟨fits_inst v nvMax_fits, fits_idx s nslot_fits⟩
theorem arSetBase (v : Voice) (f : Word) : Statement (.arSetBase v f) :=
  ⟨fits_inst v nvMax_fits, zero_fits_idx⟩
theorem arSetStretch (v : Voice) (x : Word) : Statement (.arSetStretch v x) :=
  ⟨fits_inst v nvMax_fits, zero_fits_idx⟩
theorem arSetEntropy (v : Voice) (x : Word) : Statement (.arSetEntropy v x) :=
  ⟨fits_inst v nvMax_fits, zero_fits_idx⟩
theorem arSetDetune (v : Voice) (x : Word) : Statement (.arSetDetune v x) :=
  ⟨fits_inst v nvMax_fits, zero_fits_idx⟩
theorem arSeed (v : Voice) (seed : Word) : Statement (.arSeed v seed) :=
  ⟨fits_inst v nvMax_fits, zero_fits_idx⟩
theorem arUpdate (v : Voice) (mx : Word) (my : Word) : Statement (.arUpdate v mx my) :=
  ⟨fits_inst v nvMax_fits, zero_fits_idx⟩
theorem arProcess (v : Voice) : Statement (.arProcess v) := ⟨fits_inst v nvMax_fits, zero_fits_idx⟩
theorem arGetAmp (v : Voice) (i : OscIdx) : Statement (.arGetAmp v i) :=
  ⟨fits_inst v nvMax_fits, fits_idx i nosc_fits⟩
theorem poSetFreq (v : Voice) (i : OscIdx) (f : Word) : Statement (.poSetFreq v i f) :=
  ⟨fits_inst v nvMax_fits, fits_idx i nosc_fits⟩
theorem poReset (v : Voice) (i : OscIdx) : Statement (.poReset v i) :=
  ⟨fits_inst v nvMax_fits, fits_idx i nosc_fits⟩
theorem poStep (v : Voice) (i : OscIdx) (pm : Word) : Statement (.poStep v i pm) :=
  ⟨fits_inst v nvMax_fits, fits_idx i nosc_fits⟩
theorem rfbReset (v : Voice) : Statement (.rfbReset v) := ⟨fits_inst v nvMax_fits, zero_fits_idx⟩
theorem rfbLoadModel (v : Voice) (s : SlotIdx) (ops : List Word) : Statement (.rfbLoadModel v s ops) :=
  ⟨fits_inst v nvMax_fits, fits_idx s nslot_fits⟩
theorem rfbSetBase (v : Voice) (f : Word) : Statement (.rfbSetBase v f) :=
  ⟨fits_inst v nvMax_fits, zero_fits_idx⟩
theorem rfbUpdate (v : Voice) (mx : Word) (my : Word) (res : Word) (det : Word) : Statement (.rfbUpdate v mx my res det) :=
  ⟨fits_inst v nvMax_fits, zero_fits_idx⟩
theorem rfbProcess (v : Voice) (x : Word) : Statement (.rfbProcess v x) :=
  ⟨fits_inst v nvMax_fits, zero_fits_idx⟩
theorem rfbGetAmp (v : Voice) (i : OscIdx) : Statement (.rfbGetAmp v i) :=
  ⟨fits_inst v nvMax_fits, fits_idx i nosc_fits⟩
theorem envReset (v : Voice) (e : EnvSel) : Statement (.envReset v e) :=
  ⟨fits_inst v nvMax_fits, fits_idx e two_fits⟩
theorem envSetAttack (v : Voice) (e : EnvSel) (t : Word) : Statement (.envSetAttack v e t) :=
  ⟨fits_inst v nvMax_fits, fits_idx e two_fits⟩
theorem envSetDecay (v : Voice) (e : EnvSel) (t : Word) : Statement (.envSetDecay v e t) :=
  ⟨fits_inst v nvMax_fits, fits_idx e two_fits⟩
theorem envSetSustain (v : Voice) (e : EnvSel) (level : Word) : Statement (.envSetSustain v e level) :=
  ⟨fits_inst v nvMax_fits, fits_idx e two_fits⟩
theorem envSetRelease (v : Voice) (e : EnvSel) (t : Word) : Statement (.envSetRelease v e t) :=
  ⟨fits_inst v nvMax_fits, fits_idx e two_fits⟩
theorem envNoteOn (v : Voice) (e : EnvSel) : Statement (.envNoteOn v e) :=
  ⟨fits_inst v nvMax_fits, fits_idx e two_fits⟩
theorem envNoteOff (v : Voice) (e : EnvSel) : Statement (.envNoteOff v e) :=
  ⟨fits_inst v nvMax_fits, fits_idx e two_fits⟩
theorem envProcess (v : Voice) (e : EnvSel) : Statement (.envProcess v e) :=
  ⟨fits_inst v nvMax_fits, fits_idx e two_fits⟩
theorem envGetLevel (v : Voice) (e : EnvSel) : Statement (.envGetLevel v e) :=
  ⟨fits_inst v nvMax_fits, fits_idx e two_fits⟩
theorem envGetState (v : Voice) (e : EnvSel) : Statement (.envGetState v e) :=
  ⟨fits_inst v nvMax_fits, fits_idx e two_fits⟩
theorem fbReset (v : Voice) : Statement (.fbReset v) := ⟨fits_inst v nvMax_fits, zero_fits_idx⟩
theorem fbSetCutoff (v : Voice) (f : Word) : Statement (.fbSetCutoff v f) :=
  ⟨fits_inst v nvMax_fits, zero_fits_idx⟩
theorem fbSetRes (v : Voice) (r : Word) : Statement (.fbSetRes v r) :=
  ⟨fits_inst v nvMax_fits, zero_fits_idx⟩
theorem fbSetMode (v : Voice) (mode : BitVec 16) : Statement (.fbSetMode v mode) :=
  ⟨fits_inst v nvMax_fits, mode.isLt⟩
theorem fbProcess (v : Voice) (x : Word) : Statement (.fbProcess v x) :=
  ⟨fits_inst v nvMax_fits, zero_fits_idx⟩
theorem lfoReset (j : LfoSel) : Statement (.lfoReset j) := ⟨fits_inst j nlfo_fits, zero_fits_idx⟩
theorem lfoSetRate (j : LfoSel) (r : Word) : Statement (.lfoSetRate j r) :=
  ⟨fits_inst j nlfo_fits, zero_fits_idx⟩
theorem lfoSetDepth (j : LfoSel) (d : Word) : Statement (.lfoSetDepth j d) :=
  ⟨fits_inst j nlfo_fits, zero_fits_idx⟩
theorem lfoSetWave (j : LfoSel) (wave : BitVec 16) : Statement (.lfoSetWave j wave) :=
  ⟨fits_inst j nlfo_fits, wave.isLt⟩
theorem lfoSetSync (j : LfoSel) (sync : BitVec 16) : Statement (.lfoSetSync j sync) :=
  ⟨fits_inst j nlfo_fits, sync.isLt⟩
theorem lfoSetBpm (j : LfoSel) (b : Word) : Statement (.lfoSetBpm j b) :=
  ⟨fits_inst j nlfo_fits, zero_fits_idx⟩
theorem lfoSetDiv (j : LfoSel) (d : Word) : Statement (.lfoSetDiv j d) :=
  ⟨fits_inst j nlfo_fits, zero_fits_idx⟩
theorem lfoSeed (j : LfoSel) (seed : Word) : Statement (.lfoSeed j seed) :=
  ⟨fits_inst j nlfo_fits, zero_fits_idx⟩
theorem lfoProcess (j : LfoSel) : Statement (.lfoProcess j) :=
  ⟨fits_inst j nlfo_fits, zero_fits_idx⟩
theorem lfoGetValue (j : LfoSel) : Statement (.lfoGetValue j) :=
  ⟨fits_inst j nlfo_fits, zero_fits_idx⟩
theorem lfoProcessBlock (j : LfoSel) (count : BitVec 16) : Statement (.lfoProcessBlock j count) :=
  ⟨fits_inst j nlfo_fits, count.isLt⟩
theorem fxReset : Statement .fxReset := ⟨zero_fits_inst, zero_fits_idx⟩
theorem fxSet (p : FxIdx) (x : Word) : Statement (.fxSet p x) :=
  ⟨zero_fits_inst, fits_idx p nfx_fits⟩
theorem fxLatch : Statement .fxLatch := ⟨zero_fits_inst, zero_fits_idx⟩
theorem fxModAdd (p : FxIdx) (delta : Word) : Statement (.fxModAdd p delta) :=
  ⟨zero_fits_inst, fits_idx p nfx_fits⟩
theorem fxProcess (x : Word) : Statement (.fxProcess x) := ⟨zero_fits_inst, zero_fits_idx⟩
theorem fxGetParam (p : FxIdx) : Statement (.fxGetParam p) := ⟨zero_fits_inst, fits_idx p nfx_fits⟩

end FieldsFit

/-! ## OperandWords -/

namespace OperandWords

/-- A well-formed command has as many operand words as its row says (R100, R103). -/
def Statement (i : Instr) : Prop :=
  ∀ nv : Nat, i.WellFormed nv → (parts i).ops.length = (row i.op).operands

theorem sysReset : Statement .sysReset := fun _ _ => rfl
theorem sysPrepare (blk : BitVec 16) (fs : Word) : Statement (.sysPrepare blk fs) := fun _ _ => rfl
theorem arReset (v : Voice) : Statement (.arReset v) := fun _ _ => rfl
theorem arLoadModel (v : Voice) (s : SlotIdx) (ops : List Word) : Statement (.arLoadModel v s ops) :=
  fun _ h => beq_iff_eq.mp (operands_ok h)
theorem arSetBase (v : Voice) (f : Word) : Statement (.arSetBase v f) := fun _ _ => rfl
theorem arSetStretch (v : Voice) (x : Word) : Statement (.arSetStretch v x) := fun _ _ => rfl
theorem arSetEntropy (v : Voice) (x : Word) : Statement (.arSetEntropy v x) := fun _ _ => rfl
theorem arSetDetune (v : Voice) (x : Word) : Statement (.arSetDetune v x) := fun _ _ => rfl
theorem arSeed (v : Voice) (seed : Word) : Statement (.arSeed v seed) := fun _ _ => rfl
theorem arUpdate (v : Voice) (mx : Word) (my : Word) : Statement (.arUpdate v mx my) := fun _ _ => rfl
theorem arProcess (v : Voice) : Statement (.arProcess v) := fun _ _ => rfl
theorem arGetAmp (v : Voice) (i : OscIdx) : Statement (.arGetAmp v i) := fun _ _ => rfl
theorem poSetFreq (v : Voice) (i : OscIdx) (f : Word) : Statement (.poSetFreq v i f) := fun _ _ => rfl
theorem poReset (v : Voice) (i : OscIdx) : Statement (.poReset v i) := fun _ _ => rfl
theorem poStep (v : Voice) (i : OscIdx) (pm : Word) : Statement (.poStep v i pm) := fun _ _ => rfl
theorem rfbReset (v : Voice) : Statement (.rfbReset v) := fun _ _ => rfl
theorem rfbLoadModel (v : Voice) (s : SlotIdx) (ops : List Word) : Statement (.rfbLoadModel v s ops) :=
  fun _ h => beq_iff_eq.mp (operands_ok h)
theorem rfbSetBase (v : Voice) (f : Word) : Statement (.rfbSetBase v f) := fun _ _ => rfl
theorem rfbUpdate (v : Voice) (mx : Word) (my : Word) (res : Word) (det : Word) : Statement (.rfbUpdate v mx my res det) :=
  fun _ _ => rfl
theorem rfbProcess (v : Voice) (x : Word) : Statement (.rfbProcess v x) := fun _ _ => rfl
theorem rfbGetAmp (v : Voice) (i : OscIdx) : Statement (.rfbGetAmp v i) := fun _ _ => rfl
theorem envReset (v : Voice) (e : EnvSel) : Statement (.envReset v e) := fun _ _ => rfl
theorem envSetAttack (v : Voice) (e : EnvSel) (t : Word) : Statement (.envSetAttack v e t) :=
  fun _ _ => rfl
theorem envSetDecay (v : Voice) (e : EnvSel) (t : Word) : Statement (.envSetDecay v e t) :=
  fun _ _ => rfl
theorem envSetSustain (v : Voice) (e : EnvSel) (level : Word) : Statement (.envSetSustain v e level) :=
  fun _ _ => rfl
theorem envSetRelease (v : Voice) (e : EnvSel) (t : Word) : Statement (.envSetRelease v e t) :=
  fun _ _ => rfl
theorem envNoteOn (v : Voice) (e : EnvSel) : Statement (.envNoteOn v e) := fun _ _ => rfl
theorem envNoteOff (v : Voice) (e : EnvSel) : Statement (.envNoteOff v e) := fun _ _ => rfl
theorem envProcess (v : Voice) (e : EnvSel) : Statement (.envProcess v e) := fun _ _ => rfl
theorem envGetLevel (v : Voice) (e : EnvSel) : Statement (.envGetLevel v e) := fun _ _ => rfl
theorem envGetState (v : Voice) (e : EnvSel) : Statement (.envGetState v e) := fun _ _ => rfl
theorem fbReset (v : Voice) : Statement (.fbReset v) := fun _ _ => rfl
theorem fbSetCutoff (v : Voice) (f : Word) : Statement (.fbSetCutoff v f) := fun _ _ => rfl
theorem fbSetRes (v : Voice) (r : Word) : Statement (.fbSetRes v r) := fun _ _ => rfl
theorem fbSetMode (v : Voice) (mode : BitVec 16) : Statement (.fbSetMode v mode) := fun _ _ => rfl
theorem fbProcess (v : Voice) (x : Word) : Statement (.fbProcess v x) := fun _ _ => rfl
theorem lfoReset (j : LfoSel) : Statement (.lfoReset j) := fun _ _ => rfl
theorem lfoSetRate (j : LfoSel) (r : Word) : Statement (.lfoSetRate j r) := fun _ _ => rfl
theorem lfoSetDepth (j : LfoSel) (d : Word) : Statement (.lfoSetDepth j d) := fun _ _ => rfl
theorem lfoSetWave (j : LfoSel) (wave : BitVec 16) : Statement (.lfoSetWave j wave) := fun _ _ => rfl
theorem lfoSetSync (j : LfoSel) (sync : BitVec 16) : Statement (.lfoSetSync j sync) := fun _ _ => rfl
theorem lfoSetBpm (j : LfoSel) (b : Word) : Statement (.lfoSetBpm j b) := fun _ _ => rfl
theorem lfoSetDiv (j : LfoSel) (d : Word) : Statement (.lfoSetDiv j d) := fun _ _ => rfl
theorem lfoSeed (j : LfoSel) (seed : Word) : Statement (.lfoSeed j seed) := fun _ _ => rfl
theorem lfoProcess (j : LfoSel) : Statement (.lfoProcess j) := fun _ _ => rfl
theorem lfoGetValue (j : LfoSel) : Statement (.lfoGetValue j) := fun _ _ => rfl
theorem lfoProcessBlock (j : LfoSel) (count : BitVec 16) : Statement (.lfoProcessBlock j count) :=
  fun _ _ => rfl
theorem fxReset : Statement .fxReset := fun _ _ => rfl
theorem fxSet (p : FxIdx) (x : Word) : Statement (.fxSet p x) := fun _ _ => rfl
theorem fxLatch : Statement .fxLatch := fun _ _ => rfl
theorem fxModAdd (p : FxIdx) (delta : Word) : Statement (.fxModAdd p delta) := fun _ _ => rfl
theorem fxProcess (x : Word) : Statement (.fxProcess x) := fun _ _ => rfl
theorem fxGetParam (p : FxIdx) : Statement (.fxGetParam p) := fun _ _ => rfl

end OperandWords

/-! ## BuildParts -/

namespace BuildParts

/-- The parts of a command build it again (R106, R107). -/
def Statement (i : Instr) : Prop :=
  build (parts i).op (parts i).inst (parts i).idx (parts i).ops = some i

theorem sysReset : Statement .sysReset := rfl
theorem sysPrepare (blk : BitVec 16) (fs : Word) : Statement (.sysPrepare blk fs) :=
  congrArg (fun b => some (Instr.sysPrepare b fs)) (ofNat_toNat_field blk)
theorem arReset (v : Voice) : Statement (.arReset v) := map_finOf v _
theorem arLoadModel (v : Voice) (s : SlotIdx) (ops : List Word) : Statement (.arLoadModel v s ops) :=
  (bind_finOf v _).trans (map_finOf s _)
theorem arSetBase (v : Voice) (f : Word) : Statement (.arSetBase v f) := map_finOf v _
theorem arSetStretch (v : Voice) (x : Word) : Statement (.arSetStretch v x) := map_finOf v _
theorem arSetEntropy (v : Voice) (x : Word) : Statement (.arSetEntropy v x) := map_finOf v _
theorem arSetDetune (v : Voice) (x : Word) : Statement (.arSetDetune v x) := map_finOf v _
theorem arSeed (v : Voice) (seed : Word) : Statement (.arSeed v seed) := map_finOf v _
theorem arUpdate (v : Voice) (mx : Word) (my : Word) : Statement (.arUpdate v mx my) :=
  map_finOf v _
theorem arProcess (v : Voice) : Statement (.arProcess v) := map_finOf v _
theorem arGetAmp (v : Voice) (i : OscIdx) : Statement (.arGetAmp v i) :=
  (bind_finOf v _).trans (map_finOf i _)
theorem poSetFreq (v : Voice) (i : OscIdx) (f : Word) : Statement (.poSetFreq v i f) :=
  (bind_finOf v _).trans (map_finOf i _)
theorem poReset (v : Voice) (i : OscIdx) : Statement (.poReset v i) :=
  (bind_finOf v _).trans (map_finOf i _)
theorem poStep (v : Voice) (i : OscIdx) (pm : Word) : Statement (.poStep v i pm) :=
  (bind_finOf v _).trans (map_finOf i _)
theorem rfbReset (v : Voice) : Statement (.rfbReset v) := map_finOf v _
theorem rfbLoadModel (v : Voice) (s : SlotIdx) (ops : List Word) : Statement (.rfbLoadModel v s ops) :=
  (bind_finOf v _).trans (map_finOf s _)
theorem rfbSetBase (v : Voice) (f : Word) : Statement (.rfbSetBase v f) := map_finOf v _
theorem rfbUpdate (v : Voice) (mx : Word) (my : Word) (res : Word) (det : Word) : Statement (.rfbUpdate v mx my res det) :=
  map_finOf v _
theorem rfbProcess (v : Voice) (x : Word) : Statement (.rfbProcess v x) := map_finOf v _
theorem rfbGetAmp (v : Voice) (i : OscIdx) : Statement (.rfbGetAmp v i) :=
  (bind_finOf v _).trans (map_finOf i _)
theorem envReset (v : Voice) (e : EnvSel) : Statement (.envReset v e) :=
  (bind_finOf v _).trans (map_finOf e _)
theorem envSetAttack (v : Voice) (e : EnvSel) (t : Word) : Statement (.envSetAttack v e t) :=
  (bind_finOf v _).trans (map_finOf e _)
theorem envSetDecay (v : Voice) (e : EnvSel) (t : Word) : Statement (.envSetDecay v e t) :=
  (bind_finOf v _).trans (map_finOf e _)
theorem envSetSustain (v : Voice) (e : EnvSel) (level : Word) : Statement (.envSetSustain v e level) :=
  (bind_finOf v _).trans (map_finOf e _)
theorem envSetRelease (v : Voice) (e : EnvSel) (t : Word) : Statement (.envSetRelease v e t) :=
  (bind_finOf v _).trans (map_finOf e _)
theorem envNoteOn (v : Voice) (e : EnvSel) : Statement (.envNoteOn v e) :=
  (bind_finOf v _).trans (map_finOf e _)
theorem envNoteOff (v : Voice) (e : EnvSel) : Statement (.envNoteOff v e) :=
  (bind_finOf v _).trans (map_finOf e _)
theorem envProcess (v : Voice) (e : EnvSel) : Statement (.envProcess v e) :=
  (bind_finOf v _).trans (map_finOf e _)
theorem envGetLevel (v : Voice) (e : EnvSel) : Statement (.envGetLevel v e) :=
  (bind_finOf v _).trans (map_finOf e _)
theorem envGetState (v : Voice) (e : EnvSel) : Statement (.envGetState v e) :=
  (bind_finOf v _).trans (map_finOf e _)
theorem fbReset (v : Voice) : Statement (.fbReset v) := map_finOf v _
theorem fbSetCutoff (v : Voice) (f : Word) : Statement (.fbSetCutoff v f) := map_finOf v _
theorem fbSetRes (v : Voice) (r : Word) : Statement (.fbSetRes v r) := map_finOf v _
theorem fbSetMode (v : Voice) (mode : BitVec 16) : Statement (.fbSetMode v mode) :=
  (map_finOf v _).trans (congrArg (fun b => some (Instr.fbSetMode v b)) (ofNat_toNat_field mode))
theorem fbProcess (v : Voice) (x : Word) : Statement (.fbProcess v x) := map_finOf v _
theorem lfoReset (j : LfoSel) : Statement (.lfoReset j) := map_finOf j _
theorem lfoSetRate (j : LfoSel) (r : Word) : Statement (.lfoSetRate j r) := map_finOf j _
theorem lfoSetDepth (j : LfoSel) (d : Word) : Statement (.lfoSetDepth j d) := map_finOf j _
theorem lfoSetWave (j : LfoSel) (wave : BitVec 16) : Statement (.lfoSetWave j wave) :=
  (map_finOf j _).trans (congrArg (fun b => some (Instr.lfoSetWave j b)) (ofNat_toNat_field wave))
theorem lfoSetSync (j : LfoSel) (sync : BitVec 16) : Statement (.lfoSetSync j sync) :=
  (map_finOf j _).trans (congrArg (fun b => some (Instr.lfoSetSync j b)) (ofNat_toNat_field sync))
theorem lfoSetBpm (j : LfoSel) (b : Word) : Statement (.lfoSetBpm j b) := map_finOf j _
theorem lfoSetDiv (j : LfoSel) (d : Word) : Statement (.lfoSetDiv j d) := map_finOf j _
theorem lfoSeed (j : LfoSel) (seed : Word) : Statement (.lfoSeed j seed) := map_finOf j _
theorem lfoProcess (j : LfoSel) : Statement (.lfoProcess j) := map_finOf j _
theorem lfoGetValue (j : LfoSel) : Statement (.lfoGetValue j) := map_finOf j _
theorem lfoProcessBlock (j : LfoSel) (count : BitVec 16) : Statement (.lfoProcessBlock j count) :=
  (map_finOf j _).trans (congrArg (fun b => some (Instr.lfoProcessBlock j b)) (ofNat_toNat_field count))
theorem fxReset : Statement .fxReset := rfl
theorem fxSet (p : FxIdx) (x : Word) : Statement (.fxSet p x) := map_finOf p _
theorem fxLatch : Statement .fxLatch := rfl
theorem fxModAdd (p : FxIdx) (delta : Word) : Statement (.fxModAdd p delta) := map_finOf p _
theorem fxProcess (x : Word) : Statement (.fxProcess x) := rfl
theorem fxGetParam (p : FxIdx) : Statement (.fxGetParam p) := map_finOf p _

end BuildParts

/-! ## HeaderClear -/

namespace HeaderClear

/-- No must-be-zero field of a well-formed command is set, and its instance and parameter exist (R105, R106, R113,
R114). -/
def Statement (i : Instr) : Prop :=
  ∀ nv : Nat, i.WellFormed nv → fieldsReserved (row i.op) (parts i).inst (parts i).idx = false ∧
    instanceBad nv (row i.op) (parts i).inst = false ∧ paramBad (row i.op) (parts i).idx = false

theorem sysReset : Statement .sysReset := fun _ _ => ⟨rfl, rfl, rfl⟩
theorem sysPrepare (blk : BitVec 16) (fs : Word) : Statement (.sysPrepare blk fs) := fun _ _ => ⟨rfl, rfl, rfl⟩
theorem arReset (v : Voice) : Statement (.arReset v) := fun _ h => ⟨rfl, slot_clear h rfl, rfl⟩
theorem arLoadModel (v : Voice) (s : SlotIdx) (ops : List Word) : Statement (.arLoadModel v s ops) :=
  fun _ h => ⟨bound_clear s, slot_clear h rfl, rfl⟩
theorem arSetBase (v : Voice) (f : Word) : Statement (.arSetBase v f) := fun _ h => ⟨rfl, slot_clear h rfl, rfl⟩
theorem arSetStretch (v : Voice) (x : Word) : Statement (.arSetStretch v x) :=
  fun _ h => ⟨rfl, slot_clear h rfl, rfl⟩
theorem arSetEntropy (v : Voice) (x : Word) : Statement (.arSetEntropy v x) :=
  fun _ h => ⟨rfl, slot_clear h rfl, rfl⟩
theorem arSetDetune (v : Voice) (x : Word) : Statement (.arSetDetune v x) :=
  fun _ h => ⟨rfl, slot_clear h rfl, rfl⟩
theorem arSeed (v : Voice) (seed : Word) : Statement (.arSeed v seed) := fun _ h => ⟨rfl, slot_clear h rfl, rfl⟩
theorem arUpdate (v : Voice) (mx : Word) (my : Word) : Statement (.arUpdate v mx my) :=
  fun _ h => ⟨rfl, slot_clear h rfl, rfl⟩
theorem arProcess (v : Voice) : Statement (.arProcess v) := fun _ h => ⟨rfl, slot_clear h rfl, rfl⟩
theorem arGetAmp (v : Voice) (i : OscIdx) : Statement (.arGetAmp v i) :=
  fun _ h => ⟨bound_clear i, slot_clear h rfl, rfl⟩
theorem poSetFreq (v : Voice) (i : OscIdx) (f : Word) : Statement (.poSetFreq v i f) :=
  fun _ h => ⟨bound_clear i, slot_clear h rfl, rfl⟩
theorem poReset (v : Voice) (i : OscIdx) : Statement (.poReset v i) :=
  fun _ h => ⟨bound_clear i, slot_clear h rfl, rfl⟩
theorem poStep (v : Voice) (i : OscIdx) (pm : Word) : Statement (.poStep v i pm) :=
  fun _ h => ⟨bound_clear i, slot_clear h rfl, rfl⟩
theorem rfbReset (v : Voice) : Statement (.rfbReset v) := fun _ h => ⟨rfl, slot_clear h rfl, rfl⟩
theorem rfbLoadModel (v : Voice) (s : SlotIdx) (ops : List Word) : Statement (.rfbLoadModel v s ops) :=
  fun _ h => ⟨bound_clear s, slot_clear h rfl, rfl⟩
theorem rfbSetBase (v : Voice) (f : Word) : Statement (.rfbSetBase v f) := fun _ h => ⟨rfl, slot_clear h rfl, rfl⟩
theorem rfbUpdate (v : Voice) (mx : Word) (my : Word) (res : Word) (det : Word) : Statement (.rfbUpdate v mx my res det) :=
  fun _ h => ⟨rfl, slot_clear h rfl, rfl⟩
theorem rfbProcess (v : Voice) (x : Word) : Statement (.rfbProcess v x) := fun _ h => ⟨rfl, slot_clear h rfl, rfl⟩
theorem rfbGetAmp (v : Voice) (i : OscIdx) : Statement (.rfbGetAmp v i) :=
  fun _ h => ⟨bound_clear i, slot_clear h rfl, rfl⟩
theorem envReset (v : Voice) (e : EnvSel) : Statement (.envReset v e) :=
  fun _ h => ⟨bound_clear e, slot_clear h rfl, rfl⟩
theorem envSetAttack (v : Voice) (e : EnvSel) (t : Word) : Statement (.envSetAttack v e t) :=
  fun _ h => ⟨bound_clear e, slot_clear h rfl, rfl⟩
theorem envSetDecay (v : Voice) (e : EnvSel) (t : Word) : Statement (.envSetDecay v e t) :=
  fun _ h => ⟨bound_clear e, slot_clear h rfl, rfl⟩
theorem envSetSustain (v : Voice) (e : EnvSel) (level : Word) : Statement (.envSetSustain v e level) :=
  fun _ h => ⟨bound_clear e, slot_clear h rfl, rfl⟩
theorem envSetRelease (v : Voice) (e : EnvSel) (t : Word) : Statement (.envSetRelease v e t) :=
  fun _ h => ⟨bound_clear e, slot_clear h rfl, rfl⟩
theorem envNoteOn (v : Voice) (e : EnvSel) : Statement (.envNoteOn v e) :=
  fun _ h => ⟨bound_clear e, slot_clear h rfl, rfl⟩
theorem envNoteOff (v : Voice) (e : EnvSel) : Statement (.envNoteOff v e) :=
  fun _ h => ⟨bound_clear e, slot_clear h rfl, rfl⟩
theorem envProcess (v : Voice) (e : EnvSel) : Statement (.envProcess v e) :=
  fun _ h => ⟨bound_clear e, slot_clear h rfl, rfl⟩
theorem envGetLevel (v : Voice) (e : EnvSel) : Statement (.envGetLevel v e) :=
  fun _ h => ⟨bound_clear e, slot_clear h rfl, rfl⟩
theorem envGetState (v : Voice) (e : EnvSel) : Statement (.envGetState v e) :=
  fun _ h => ⟨bound_clear e, slot_clear h rfl, rfl⟩
theorem fbReset (v : Voice) : Statement (.fbReset v) := fun _ h => ⟨rfl, slot_clear h rfl, rfl⟩
theorem fbSetCutoff (v : Voice) (f : Word) : Statement (.fbSetCutoff v f) :=
  fun _ h => ⟨rfl, slot_clear h rfl, rfl⟩
theorem fbSetRes (v : Voice) (r : Word) : Statement (.fbSetRes v r) := fun _ h => ⟨rfl, slot_clear h rfl, rfl⟩
theorem fbSetMode (v : Voice) (mode : BitVec 16) : Statement (.fbSetMode v mode) :=
  fun _ h => ⟨rfl, slot_clear h rfl, rfl⟩
theorem fbProcess (v : Voice) (x : Word) : Statement (.fbProcess v x) := fun _ h => ⟨rfl, slot_clear h rfl, rfl⟩
theorem lfoReset (j : LfoSel) : Statement (.lfoReset j) := fun _ _ => ⟨rfl, bound_clear j, rfl⟩
theorem lfoSetRate (j : LfoSel) (r : Word) : Statement (.lfoSetRate j r) :=
  fun _ _ => ⟨rfl, bound_clear j, rfl⟩
theorem lfoSetDepth (j : LfoSel) (d : Word) : Statement (.lfoSetDepth j d) :=
  fun _ _ => ⟨rfl, bound_clear j, rfl⟩
theorem lfoSetWave (j : LfoSel) (wave : BitVec 16) : Statement (.lfoSetWave j wave) :=
  fun _ _ => ⟨rfl, bound_clear j, rfl⟩
theorem lfoSetSync (j : LfoSel) (sync : BitVec 16) : Statement (.lfoSetSync j sync) :=
  fun _ _ => ⟨rfl, bound_clear j, rfl⟩
theorem lfoSetBpm (j : LfoSel) (b : Word) : Statement (.lfoSetBpm j b) := fun _ _ => ⟨rfl, bound_clear j, rfl⟩
theorem lfoSetDiv (j : LfoSel) (d : Word) : Statement (.lfoSetDiv j d) := fun _ _ => ⟨rfl, bound_clear j, rfl⟩
theorem lfoSeed (j : LfoSel) (seed : Word) : Statement (.lfoSeed j seed) :=
  fun _ _ => ⟨rfl, bound_clear j, rfl⟩
theorem lfoProcess (j : LfoSel) : Statement (.lfoProcess j) := fun _ _ => ⟨rfl, bound_clear j, rfl⟩
theorem lfoGetValue (j : LfoSel) : Statement (.lfoGetValue j) := fun _ _ => ⟨rfl, bound_clear j, rfl⟩
theorem lfoProcessBlock (j : LfoSel) (count : BitVec 16) : Statement (.lfoProcessBlock j count) :=
  fun _ _ => ⟨rfl, bound_clear j, rfl⟩
theorem fxReset : Statement .fxReset := fun _ _ => ⟨rfl, rfl, rfl⟩
theorem fxSet (p : FxIdx) (x : Word) : Statement (.fxSet p x) := fun _ _ => ⟨rfl, rfl, bound_clear p⟩
theorem fxLatch : Statement .fxLatch := fun _ _ => ⟨rfl, rfl, rfl⟩
theorem fxModAdd (p : FxIdx) (delta : Word) : Statement (.fxModAdd p delta) :=
  fun _ _ => ⟨rfl, rfl, bound_clear p⟩
theorem fxProcess (x : Word) : Statement (.fxProcess x) := fun _ _ => ⟨rfl, rfl, rfl⟩
theorem fxGetParam (p : FxIdx) : Statement (.fxGetParam p) := fun _ _ => ⟨rfl, rfl, bound_clear p⟩

end HeaderClear

end Sys2Proof.Laws
end

