-- ==== Sys2Proof/Laws/Step.lean ====
section
/-!
SUPPORT. What one step can do, and what decoding the head of a channel can answer, each said once.
-/

namespace Sys2Proof.Machine

open Sys2Proof Config

/-- Everything a step that answers a next state can have done: wait, or accept and execute one command. -/
theorem step_next {s t : State} (h : step s = .next t) :
    (s.head s.served = .incomplete ∧ t = s) ∨
      ∃ i rest, s.head s.served = .command i rest ∧ exec i (s.accept s.served rest) = .next t := by
  unfold step at h
  cases hd : s.head s.served with
  | incomplete =>
    rw [hd] at h
    injection h with h
    exact Or.inl ⟨rfl, h.symm⟩
  | invalid e => rw [hd] at h; cases h
  | command i rest =>
    rw [hd] at h
    exact Or.inr ⟨i, rest, rfl, h⟩

/-- A step at a whole command executes it. -/
theorem step_of_command {s : State} {i : Instr} {rest : List Word}
    (h : s.head s.served = .command i rest) : step s = exec i (s.accept s.served rest) := by
  unfold step; rw [h]

/-- A step at an incomplete head waits (R85). -/
theorem step_of_incomplete {s : State} (h : s.head s.served = .incomplete) : step s = .next s := by
  unfold step; rw [h]

/-- A step at a header without meaning refuses it by name. -/
theorem step_of_invalid {s : State} {e : DecodeError} (h : s.head s.served = .invalid e) :
    step s = .refused (refusalOf e) := by
  unfold step; rw [h]

end Sys2Proof.Machine

namespace Sys2Proof

/-- Everything decoding a channel can answer, by what its first word is. -/
theorem decode_cons (nv : Nat) (p : Port) (h : Word) (ws : List Word) :
    (opOfCode (headerCode h) = none ∧ decode nv p (h :: ws) = .invalid .reservedHeader) ∨
      ∃ o, opOfCode (headerCode h) = some o ∧
        ((∃ e, headerError nv p (row o) h = some e ∧ decode nv p (h :: ws) = .invalid e) ∨
          (headerError nv p (row o) h = none ∧
            ((ws.length < (row o).operands ∧ decode nv p (h :: ws) = .incomplete) ∨
              ((row o).operands ≤ ws.length ∧
                decode nv p (h :: ws) =
                  match build o (headerInst h) (headerIdx h) (ws.take (row o).operands) with
                  | some i => .command i (ws.drop (row o).operands)
                  | none => .invalid .reservedHeader)))) := by
  cases ho : opOfCode (headerCode h) with
  | none => exact Or.inl ⟨rfl, by simp [decode, ho]⟩
  | some o =>
    refine Or.inr ⟨o, rfl, ?_⟩
    cases he : headerError nv p (row o) h with
    | some e => exact Or.inl ⟨e, rfl, by simp [decode, ho, he]⟩
    | none =>
      refine Or.inr ⟨rfl, ?_⟩
      by_cases hl : ws.length < (row o).operands
      · exact Or.inl ⟨hl, by simp [decode, ho, he, hl]⟩
      · exact Or.inr ⟨Nat.le_of_not_lt hl, by
        simp only [decode, ho, he, if_neg hl] <;> rfl⟩

end Sys2Proof
end

