-- ==== Sys2Proof/Machine/Assembler.lean ====
section
/-!
DEFINITION. The written form of commands: the pseudo-instructions of 30_encoding.md R117 as the runs of
commands they stand for, and the notation of R116 as text. Neither is part of a step.
-/

namespace Sys2Proof

open Config

/-! ## Pseudo-instructions (R117) -/

/-- `env.set_adsr v<n>.e<e>, a, d, s, r` (R117). -/
def pseudoSetAdsr (v : Voice) (e : EnvSel) (a d sus r : Word) : List Instr :=
  [.envSetAttack v e a, .envSetDecay v e d, .envSetSustain v e sus, .envSetRelease v e r]

/-- `fx.set_all m, s, t, f, c, r` (R117). -/
def pseudoFxSetAll (m sat t f c r : Word) : List Instr :=
  [.fxSet 0 m, .fxSet 1 sat, .fxSet 2 t, .fxSet 3 f, .fxSet 4 c, .fxSet 5 r]

/-- `load_model v<n>, slot, …` (R117). -/
def pseudoLoadModel (v : Voice) (s : SlotIdx) (ops : List Word) : List Instr :=
  [.arLoadModel v s ops, .rfbLoadModel v s ops]

/-- The words of a run of commands, in order. -/
def encodeAll (is : List Instr) : List Word := is.flatMap encode

/-- The number of a parameter register: unit, func, inst, idx of its setter (R34, R104). Where the setter's `idx`
carries an operand (FB.mode, LFO.wave, LFO.sync, those of SYS.PREPARE) the number carries it too: the model's choice
(assumption 32). -/
def commandNumber (i : Instr) : Nat × Nat × Nat × Nat :=
  ((row i.op).code / 16, (row i.op).code % 16, (parts i).inst, (parts i).idx)

/-! ## Notation (R116) -/

/-- The mnemonic of a row, in lower case (R103, R116). -/
def mnemonicText : Op → String
  | .sysReset => "sys.reset"
  | .sysPrepare => "sys.prepare"
  | .arReset => "ar.reset"
  | .arLoadModel => "ar.load_model"
  | .arSetBase => "ar.set_base"
  | .arSetStretch => "ar.set_stretch"
  | .arSetEntropy => "ar.set_entropy"
  | .arSetDetune => "ar.set_detune"
  | .arSeed => "ar.seed"
  | .arUpdate => "ar.update"
  | .arProcess => "ar.process"
  | .arGetAmp => "ar.get_amp"
  | .poSetFreq => "po.set_freq"
  | .poReset => "po.reset"
  | .poStep => "po.step"
  | .rfbReset => "rfb.reset"
  | .rfbLoadModel => "rfb.load_model"
  | .rfbSetBase => "rfb.set_base"
  | .rfbUpdate => "rfb.update"
  | .rfbProcess => "rfb.process"
  | .rfbGetAmp => "rfb.get_amp"
  | .envReset => "env.reset"
  | .envSetAttack => "env.set_attack"
  | .envSetDecay => "env.set_decay"
  | .envSetSustain => "env.set_sustain"
  | .envSetRelease => "env.set_release"
  | .envNoteOn => "env.note_on"
  | .envNoteOff => "env.note_off"
  | .envProcess => "env.process"
  | .envGetLevel => "env.get_level"
  | .envGetState => "env.get_state"
  | .fbReset => "fb.reset"
  | .fbSetCutoff => "fb.set_cutoff"
  | .fbSetRes => "fb.set_res"
  | .fbSetMode => "fb.set_mode"
  | .fbProcess => "fb.process"
  | .lfoReset => "lfo.reset"
  | .lfoSetRate => "lfo.set_rate"
  | .lfoSetDepth => "lfo.set_depth"
  | .lfoSetWave => "lfo.set_wave"
  | .lfoSetSync => "lfo.set_sync"
  | .lfoSetBpm => "lfo.set_bpm"
  | .lfoSetDiv => "lfo.set_div"
  | .lfoSeed => "lfo.seed"
  | .lfoProcess => "lfo.process"
  | .lfoGetValue => "lfo.get_value"
  | .lfoProcessBlock => "lfo.process_block"
  | .fxReset => "fx.reset"
  | .fxSet => "fx.set"
  | .fxLatch => "fx.latch"
  | .fxModAdd => "fx.mod_add"
  | .fxProcess => "fx.process"
  | .fxGetParam => "fx.get_param"

/-- Decimal digits of `r / 2^149` after the point; every binary32 value has finitely many. -/
def fractionDigits : Nat → Nat → String
  | 0, _ => ""
  | fuel + 1, r =>
    if r = 0 then "" else toString (r * 10 / 2 ^ 149) ++ fractionDigits fuel (r * 10 % 2 ^ 149)

/-- A word in the notation of a raw word, eight hexadecimal digits (R116). -/
def rawText (w : Word) : String := "0x" ++ w.toHex

/-- A real operand as the decimal literal that is exactly its value; a pattern that is no finite value is
written as a raw word (R116). -/
def realText (w : Word) : String :=
  match F.asF w with
  | .fin s m =>
    (if s then "-" else "") ++ toString (F.magVal m.val / 2 ^ 149) ++ "." ++
      (if F.magVal m.val % 2 ^ 149 = 0 then "0" else fractionDigits 149 (F.magVal m.val % 2 ^ 149))
  | _ => rawText w

/-- A name from a list of names, or the number itself. -/
def nameOr (names : List String) (n : Nat) : String := names.getD n (toString n)

/-- Texts separated by commas. -/
def commaText (xs : List String) : String := String.intercalate ", " xs

/-- A brace-enclosed list of real operands: how half a model is written (R116). -/
def braceText (ws : List Word) : String :=
  String.singleton (Char.ofNat 123) ++ commaText (ws.map realText) ++ String.singleton (Char.ofNat 125)

/-- A voice target `v<n>`. -/
def voiceText (v : Voice) : String := "v" ++ toString v.val
/-- An envelope target `v<n>.e<e>`. -/
def envText (v : Voice) (e : EnvSel) : String := voiceText v ++ ".e" ++ toString e.val
/-- An oscillator target `v<n>.o<i>`. -/
def oscText (v : Voice) (i : OscIdx) : String := voiceText v ++ ".o" ++ toString i.val
/-- An LFO target `l<j>`. -/
def lfoText (j : LfoSel) : String := "l" ++ toString j.val
/-- An effect parameter by name. -/
def paramText (p : FxIdx) : String := nameOr ["master", "sat", "dly_time", "dly_fb", "ch_mix", "rv_mix"] p.val
/-- A model slot by name. -/
def slotText (s : SlotIdx) : String := nameOr ["A", "B", "C", "D"] s.val

/-- The target, index operand and operands of a command, as texts (R116). -/
def operandTexts : Instr → List String
  | .sysReset | .fxReset | .fxLatch => []
  | .sysPrepare blk fs => [toString blk.toNat, realText fs]
  | .arLoadModel v s ops | .rfbLoadModel v s ops =>
    [voiceText v, slotText s, braceText (ops.take np), braceText (ops.drop np)]
  | .arSeed v w => [voiceText v, rawText w]
  | .arSetBase v x | .arSetStretch v x | .arSetEntropy v x | .arSetDetune v x | .rfbSetBase v x
  | .rfbProcess v x | .fbSetCutoff v x | .fbSetRes v x | .fbProcess v x => [voiceText v, realText x]
  | .arUpdate v mx my => [voiceText v, realText mx, realText my]
  | .arGetAmp v i | .rfbGetAmp v i => [voiceText v, toString i.val]
  | .poSetFreq v i x | .poStep v i x => [oscText v i, realText x]
  | .poReset v i => [oscText v i]
  | .rfbUpdate v mx my res det => [voiceText v, realText mx, realText my, realText res, realText det]
  | .envSetAttack v e x | .envSetDecay v e x | .envSetSustain v e x | .envSetRelease v e x =>
    [envText v e, realText x]
  | .envReset v e | .envNoteOn v e | .envNoteOff v e | .envProcess v e | .envGetLevel v e
  | .envGetState v e => [envText v e]
  | .arReset v | .arProcess v | .rfbReset v | .fbReset v => [voiceText v]
  | .fbSetMode v m => [voiceText v, nameOr ["lp", "hp", "bp", "notch"] m.toNat]
  | .lfoSetWave j w => [lfoText j, nameOr ["sine", "tri", "sawup", "sawdown", "square", "sh"] w.toNat]
  | .lfoSetSync j m => [lfoText j, nameOr ["free", "sync"] m.toNat]
  | .lfoSetRate j x | .lfoSetDepth j x | .lfoSetBpm j x | .lfoSetDiv j x => [lfoText j, realText x]
  | .lfoSeed j w => [lfoText j, rawText w]
  | .lfoReset j | .lfoProcess j | .lfoGetValue j => [lfoText j]
  | .lfoProcessBlock j n => [lfoText j, toString n.toNat]
  | .fxSet p x | .fxModAdd p x => [paramText p, realText x]
  | .fxProcess x => [realText x]
  | .fxGetParam p => [paramText p]

/-- A command as text: mnemonic, target, index operand, operands (R116). -/
def asmText (i : Instr) : String :=
  mnemonicText i.op ++
    (match operandTexts i with
      | [] => ""
      | ts => " " ++ commaText ts)

end Sys2Proof
end

