-- ==== Sys2Proof/Machine/Reference.lean ====
section
/-!
DEFINITION. The reference instantiations the spec prints its test vectors with (00_scope.md R21; 41 R153;
46 R306, R307, R309): correctly rounded fexp, fsin, fcos, fpow, the linear congruential generator, and the
stand-in effect kernels. `exec` does not use this record: the open functions stay open there (assumptions
5 to 8). The real functions are computed in fixed point with 400 fraction bits and rounded once, but for a power
that is an exact tie, which is found by integer arithmetic (assumption 18).
-/

namespace Sys2Proof.Machine

open Sys2Proof Config

/-! ## Fixed point with 400 fraction bits -/

/-- The fraction bits of the fixed-point numbers. -/
abbrev refBits : Nat := 400

/-- 2π in fixed point. -/
def refTwoPi : Nat := 16224754493461942477724542702601789038322303200358530407182382075230461810747980997491046721853633630855133559454655152472

/-- ln 2 in fixed point. -/
def refLn2 : Nat := 1789879222497203190815761498240779176894896805856420935579692301363062920687047601279850318367644315849030039181347319086

/-- The magnitude of a finite value in fixed point (exact: 400 > 149). -/
def refFix (m : Nat) : Nat := F.magVal m * 2 ^ (refBits - 149)

/-- The binary32 value nearest to a fixed-point number. -/
def refToF (neg : Bool) (v : Nat) : F := F.round neg (v * 2 ^ 149) (2 ^ refBits)

/-- A fixed-point product. -/
def refMul (a b : Nat) : Nat := a * b / 2 ^ refBits

/-- An alternating series of terms `t_k = t_(k-1) * xx / ((d+1)(d+2))`, the sums of its positive and its
negative terms kept apart. -/
def refAlternating (xx : Nat) : Nat → Nat → Nat → Nat → Nat → Nat × Nat
  | 0, _, _, pos, neg => (pos, neg)
  | fuel + 1, d, t, pos, neg =>
    refAlternating xx fuel (d + 2) (refMul t xx / ((d + 1) * (d + 2))) neg (pos + t)

/-- `pos - neg` of a series with an even number of turns, as a sign and a magnitude. -/
def refSigned (pn : Nat × Nat) : Bool × Nat := if pn.2 ≤ pn.1 then (false, pn.1 - pn.2) else (true, pn.2 - pn.1)

/-- The sine of a magnitude, by its series on the argument modulo 2π. -/
def refSinFix (v : Nat) : Bool × Nat :=
  refSigned (refAlternating (refMul (v % refTwoPi) (v % refTwoPi)) 100 1 (v % refTwoPi) 0 0)

/-- The cosine of a magnitude. -/
def refCosFix (v : Nat) : Bool × Nat :=
  refSigned (refAlternating (refMul (v % refTwoPi) (v % refTwoPi)) 100 0 (2 ^ refBits) 0 0)

/-- The exponential series of a small magnitude. -/
def refExpSeries (x : Nat) : Nat → Nat → Nat → Nat → Nat
  | 0, _, _, acc => acc
  | fuel + 1, k, t, acc => refExpSeries x fuel (k + 1) (refMul t x / (k + 1)) (acc + t)

/-- Repeated squaring. -/
def refSquare : Nat → Nat → Nat
  | 0, v => v
  | n + 1, v => refSquare n (refMul v v)

/-- The exponential of a magnitude: the series at `v / 2^10`, squared ten times. -/
def refExpFix (v : Nat) : Nat := refSquare 10 (refExpSeries (v / 2 ^ 10) 70 0 (2 ^ refBits) 0)

/-- The exponential of a signed fixed-point number whose magnitude is at most 104. -/
def refExpSigned (neg : Bool) (v : Nat) : Nat :=
  if neg then 2 ^ (2 * refBits) / refExpFix v else refExpFix v

/-- The exponential of a signed fixed-point number, as the value nearest to what `settle` makes of its fixed-point
value; past the range of binary32 it is an infinity or zero. -/
def refExpWith (settle : Nat → Nat) (neg : Bool) (v : Nat) : F :=
  if 104 * 2 ^ refBits < v then (if neg then F.zero else .inf false)
  else refToF false (settle (refExpSigned neg v))

/-- `atanh` by its series. -/
def refAtanhSeries (tt : Nat) : Nat → Nat → Nat → Nat → Nat
  | 0, _, _, acc => acc
  | fuel + 1, k, t, acc => refAtanhSeries tt fuel (k + 2) (refMul t tt) (acc + t / k)

/-- The natural logarithm of `a / b` in `[1, 2)`: `2 atanh((a - b) / (a + b))`. -/
def refLnUnit (a b : Nat) : Nat :=
  2 * refAtanhSeries (refMul ((a - b) * 2 ^ refBits / (a + b)) ((a - b) * 2 ^ refBits / (a + b))) 130 1
    ((a - b) * 2 ^ refBits / (a + b)) 0

/-- The logarithm of a positive magnitude pattern as a sign and a magnitude: `ln m + e ln 2` with the
value `m * 2^e` units of 2^-149. -/
def refLn (m : Nat) : Bool × Nat :=
  if (F.magVal m).log2 < 149 then
    -- the exponent is negative: (149 - log2) ln 2 - ln(mantissa)
    (true, (149 - (F.magVal m).log2) * refLn2 - refLnUnit (F.magVal m) (2 ^ (F.magVal m).log2))
  else (false, ((F.magVal m).log2 - 149) * refLn2 + refLnUnit (F.magVal m) (2 ^ (F.magVal m).log2))

/-! ## NUM (R21)

Each is the real function at the exact value of its arguments, rounded. R21 prints no value for an infinite argument
or where the real function has none: those chosen here are the model's (assumption 33). -/

/-- The correctly rounded exponential; its limits, 0.0 and `+inf`, at the infinities (assumption 33). -/
def refExp : F → F
  | .nan => .nan
  | .inf s => if s then F.zero else .inf false
  | .fin s m => refExpWith id s (refFix m.val)

/-- The correctly rounded sine; a NaN at the infinities (assumption 33). -/
def refSin : F → F
  | .fin s m => refToF (s != (refSinFix (refFix m.val)).1) (refSinFix (refFix m.val)).2
  | _ => .nan

/-- The correctly rounded cosine; a NaN at the infinities (assumption 33). -/
def refCos : F → F
  | .fin _ m => refToF (refCosFix (refFix m.val)).1 (refCosFix (refFix m.val)).2
  | _ => .nan

/-- The magnitude of a finite value is an integer. -/
def refIntegral (n : Nat) : Bool := F.magVal n % 2 ^ 149 = 0

/-- The magnitude of a finite value, when it is an integer, is odd. -/
def refOdd (n : Nat) : Bool := F.magVal n / 2 ^ 149 % 2 = 1

/-- The number of 25 significant bits nearest to a fixed-point number. A tie between two binary32 values has at
most 25. -/
def refCandidate (v : Nat) : Nat :=
  F.divNearestEven v (2 ^ (v.log2 - 24)) * 2 ^ (v.log2 - 24)

/-- `b / 2^k` in lowest terms, from `n / 2^k`. -/
def refReduce : Nat → Nat → Nat × Nat
  | 0, n => (n, 0)
  | k + 1, n => if n % 2 = 0 then refReduce k (n / 2) else (n, k + 1)

/-- The fixed-point number `c` is the power `x^y` itself, for `x = m / 2^149` and `y = b / 2^k`, negative when `t`:
`c^(2^k) = x^b` or its inverse, in integers. A power with `k > 7` or `b > 150` is no number of 25 bits in the range of
binary32, unless it is 1.0: an odd part above 1 is then no `2^k`-th power below `2^24` or its `b`-th power is above
`2^25`, and a power of two has a root of that order in no exponent below 150. -/
def refIsPower (c m : Nat) (t : Bool) (y : Nat × Nat) : Bool :=
  decide (y.2 ≤ 7) && decide (y.1 ≤ 150) &&
    (if t then c ^ 2 ^ y.2 * m ^ y.1 = 2 ^ (149 * y.1 + refBits * 2 ^ y.2)
     else c ^ 2 ^ y.2 * 2 ^ (149 * y.1) = m ^ y.1 * 2 ^ (refBits * 2 ^ y.2))

/-- The fixed-point value of a power: the candidate where it is the power, else the approximation. -/
def refSettlePow (m : Nat) (t : Bool) (y : Nat × Nat) (v : Nat) : Nat :=
  if refIsPower (refCandidate v) m t y then refCandidate v else v

/-- The power of a positive base, from its magnitude pattern and the exponent's sign and magnitude pattern. -/
def refPowMag (m : Nat) (t : Bool) (n : Nat) : F :=
  refExpWith (refSettlePow (F.magVal m) t (refReduce 149 (F.magVal n))) (t != (refLn m).1)
    (refMul (refLn m).2 (refFix n))

/-- The correctly rounded power; the rules raise only 1 to 64 (R154). Either zero is the number 0; a negative base
has a power at integral exponents. Where there is no real power the value is the model's (assumption 33): 1.0 for
0 to the 0, `+inf` for 0 to a negative exponent, a NaN for a negative base at any other exponent and for an infinite
argument. -/
def refPow : F → F → F
  | .fin s m, .fin t n =>
    if m.val = 0 then (if n.val = 0 then F.one else if t then .inf false else F.zero)
    else if !s then refPowMag m.val t n.val
    else if !refIntegral n.val then .nan
    else if refOdd n.val then F.neg (refPowMag m.val t n.val)
    else refPowMag m.val t n.val
  | _, _ => .nan

/-! ## RNG (R153) -/

/-- `rng_next(s) = (s * 1664525 + 1013904223) mod 2^32`. -/
def refRngNext (s : Word) : Word := s * 1664525#32 + 1013904223#32

/-- `rng_bipolar(s) = F(s >> 8) * 2^-23 - 1.0`. -/
def refBipolar (s : Word) : F := F.sub (F.mul (F.ofNat (s >>> 8).toNat) (F.lit 1 (2 ^ 23))) F.one

/-! ## Kernels (R306, R307, R309) -/

/-- The clip of the saturation stand-in. -/
def refClip (x : F) : F := if F.lt x (F.neg F.one) then F.neg F.one else if F.gt x F.one then F.one else x

/-- The cubic soft clip `1.5 * c - 0.5 * ((c * c) * c)`. -/
def refSoft (c : F) : F := F.sub (F.mul (F.lit 3 2) c) (F.mul (F.lit 1 2) (F.mul (F.mul c c) c))

/-- The saturation stand-in (R306). -/
def refSat (x a : F) : F := F.add x (F.mul a (F.sub (refSoft (refClip x)) x))

/-- The chorus stand-in: one fixed tap (R307). The write comes before the read; they touch different
elements. -/
def refChorus (k : KernelState) (x mix : F) : KernelStep where
  writes := [(k.index, x)]
  index := (k.index + 1) % chLen
  own := []
  out := F.add x (F.mul mix (F.sub ((k.line.set k.index x).get (tapIndex chLen k.index chD)) x))

/-- The reverb stand-in: one feedback comb (R309). -/
def refReverb (k : KernelState) (x mix : F) : KernelStep where
  writes := [(k.index, F.add x (F.mul rvG (k.line.get (tapIndex rvLen k.index rvD))))]
  index := (k.index + 1) % rvLen
  own := []
  out := F.add x (F.mul mix (F.sub (k.line.get (tapIndex rvLen k.index rvD)) x))

/-- The reference record (R21, R153, R306, R307, R309), with the quiet NaN as its NaN pattern. -/
def referenceParams : Params where
  rawExp := refExp
  rawSin := refSin
  rawCos := refCos
  rawPow := refPow
  rngNext := refRngNext
  rawBipolar := refBipolar
  rawSat := refSat
  rawChorus := refChorus
  rawReverb := refReverb
  nanDraw := fun _ => 0x7FC00000#32

end Sys2Proof.Machine
end

