-- ==== Sys2Proof/Tests/Slice0.lean ====
section
/-!
SUPPORT. The model's own tests: the well-formedness check, the decoding of a word written out from
30_encoding.md R103 for every command, the vectors of 95_test_vectors.md command by command (each with the
section it is printed in), and a witness for the hypotheses of every statement that has some.
-/

namespace Sys2Proof.Tests

set_option Elab.async false

open Sys2Proof Sys2Proof.Machine Sys2Proof.Config

/-! ## Well-formedness: what no command is -/

theorem test_wellFormed_refuses_no_operands : (Instr.arLoadModel 0 0 []).wellFormed 32 = false := by decide
theorem test_wellFormed_refuses_127_operands :
    (Instr.rfbLoadModel 0 0 (List.replicate 127 0#32)).wellFormed 32 = false := by decide +kernel
theorem test_wellFormed_refuses_129_operands :
    (Instr.arLoadModel 31 3 (List.replicate 129 0#32)).wellFormed 32 = false := by decide +kernel
theorem test_wellFormed_refuses_slot_32 :
    (Instr.fbReset 32).wellFormed 32 = false ∧ (Instr.fbReset 32).wellFormed 33 = true := by decide

/-! ## Decoding: one word of every command, written out from the header patterns of R103 -/

/-- 128 operand words, each its own place. -/
def modelWords : List Word := (List.range 128).map fun k => BitVec.ofNat 32 (k + 1)

theorem test_decode_sysReset : decode 32 .aud [0x01000000#32] =
    .command .sysReset [] := by decide +kernel
theorem test_decode_sysPrepare : decode 32 .aud [0x02008003#32, 0x3F801665#32] =
    .command (.sysPrepare 32771#16 0x3F801665#32) [] := by decide +kernel
theorem test_decode_arReset : decode 32 .aud [0x100A0000#32] =
    .command (.arReset 10) [] := by decide +kernel
theorem test_decode_arLoadModel : decode 32 .aud (0x11000001#32 :: modelWords) =
    .command (.arLoadModel 0 1 modelWords) [] := by decide +kernel
theorem test_decode_arSetBase : decode 32 .aud [0x12130000#32, 0x3F802CCA#32] =
    .command (.arSetBase 19 0x3F802CCA#32) [] := by decide +kernel
theorem test_decode_arSetStretch : decode 32 .aud [0x131F0000#32, 0x3F803441#32] =
    .command (.arSetStretch 31 0x3F803441#32) [] := by decide +kernel
theorem test_decode_arSetEntropy : decode 32 .aud [0x14050000#32, 0x3F803BB8#32] =
    .command (.arSetEntropy 5 0x3F803BB8#32) [] := by decide +kernel
theorem test_decode_arSetDetune : decode 32 .aud [0x15120000#32, 0x3F80432F#32] =
    .command (.arSetDetune 18 0x3F80432F#32) [] := by decide +kernel
theorem test_decode_arSeed : decode 32 .aud [0x160A0000#32, 0x3F804AA6#32] =
    .command (.arSeed 10 0x3F804AA6#32) [] := by decide +kernel
theorem test_decode_arUpdate : decode 32 .aud [0x17000000#32, 0x3F80521D#32, 0x3F80532E#32] =
    .command (.arUpdate 0 0x3F80521D#32 0x3F80532E#32) [] := by decide +kernel
theorem test_decode_arProcess : decode 32 .aud [0x18130000#32] =
    .command (.arProcess 19) [] := by decide +kernel
theorem test_decode_arGetAmp : decode 32 .ctl [0x191F007F#32] =
    .command (.arGetAmp 31 127) [] := by decide +kernel
theorem test_decode_poSetFreq : decode 32 .aud [0x1A050041#32, 0x3F806882#32] =
    .command (.poSetFreq 5 65 0x3F806882#32) [] := by decide +kernel
theorem test_decode_poReset : decode 32 .aud [0x1B120005#32] =
    .command (.poReset 18 5) [] := by decide +kernel
theorem test_decode_poStep : decode 32 .aud [0x1C0A007F#32, 0x3F807770#32] =
    .command (.poStep 10 127 0x3F807770#32) [] := by decide +kernel
theorem test_decode_rfbReset : decode 32 .aud [0x20000000#32] =
    .command (.rfbReset 0) [] := by decide +kernel
theorem test_decode_rfbLoadModel : decode 32 .aud (0x21130002#32 :: modelWords) =
    .command (.rfbLoadModel 19 2 modelWords) [] := by decide +kernel
theorem test_decode_rfbSetBase : decode 32 .aud [0x221F0000#32, 0x3F808DD5#32] =
    .command (.rfbSetBase 31 0x3F808DD5#32) [] := by decide +kernel
theorem test_decode_rfbUpdate :
    decode 32 .aud [0x27050000#32, 0x3F80954C#32, 0x3F80965D#32, 0x3F80976E#32, 0x3F80987F#32] =
    .command (.rfbUpdate 5 0x3F80954C#32 0x3F80965D#32 0x3F80976E#32 0x3F80987F#32) [] := by decide +kernel
theorem test_decode_rfbProcess : decode 32 .aud [0x28120000#32, 0x3F809CC3#32] =
    .command (.rfbProcess 18 0x3F809CC3#32) [] := by decide +kernel
theorem test_decode_rfbGetAmp : decode 32 .ctl [0x290A007F#32] =
    .command (.rfbGetAmp 10 127) [] := by decide +kernel
theorem test_decode_envReset : decode 32 .aud [0x30000001#32] =
    .command (.envReset 0 1) [] := by decide +kernel
theorem test_decode_envSetAttack : decode 32 .ctl [0x31130001#32, 0x3F80B328#32] =
    .command (.envSetAttack 19 1 0x3F80B328#32) [] := by decide +kernel
theorem test_decode_envSetDecay : decode 32 .ctl [0x321F0001#32, 0x3F80BA9F#32] =
    .command (.envSetDecay 31 1 0x3F80BA9F#32) [] := by decide +kernel
theorem test_decode_envSetSustain : decode 32 .ctl [0x33050001#32, 0x3F80C216#32] =
    .command (.envSetSustain 5 1 0x3F80C216#32) [] := by decide +kernel
theorem test_decode_envSetRelease : decode 32 .ctl [0x34120001#32, 0x3F80C98D#32] =
    .command (.envSetRelease 18 1 0x3F80C98D#32) [] := by decide +kernel
theorem test_decode_envNoteOn : decode 32 .aud [0x350A0001#32] =
    .command (.envNoteOn 10 1) [] := by decide +kernel
theorem test_decode_envNoteOff : decode 32 .aud [0x36000001#32] =
    .command (.envNoteOff 0 1) [] := by decide +kernel
theorem test_decode_envProcess : decode 32 .aud [0x38130001#32] =
    .command (.envProcess 19 1) [] := by decide +kernel
theorem test_decode_envGetLevel : decode 32 .ctl [0x391F0001#32] =
    .command (.envGetLevel 31 1) [] := by decide +kernel
theorem test_decode_envGetState : decode 32 .ctl [0x3A050001#32] =
    .command (.envGetState 5 1) [] := by decide +kernel
theorem test_decode_fbReset : decode 32 .aud [0x40120000#32] =
    .command (.fbReset 18) [] := by decide +kernel
theorem test_decode_fbSetCutoff : decode 32 .ctl [0x410A0000#32, 0x3F80FDCE#32] =
    .command (.fbSetCutoff 10 0x3F80FDCE#32) [] := by decide +kernel
theorem test_decode_fbSetRes : decode 32 .ctl [0x42000000#32, 0x3F810545#32] =
    .command (.fbSetRes 0 0x3F810545#32) [] := by decide +kernel
theorem test_decode_fbSetMode : decode 32 .ctl [0x43138003#32] =
    .command (.fbSetMode 19 32771#16) [] := by decide +kernel
theorem test_decode_fbProcess : decode 32 .aud [0x481F0000#32, 0x3F811433#32] =
    .command (.fbProcess 31 0x3F811433#32) [] := by decide +kernel
theorem test_decode_lfoReset : decode 32 .aud [0x50010000#32] =
    .command (.lfoReset 1) [] := by decide +kernel
theorem test_decode_lfoSetRate : decode 32 .ctl [0x51000000#32, 0x3F812321#32] =
    .command (.lfoSetRate 0 0x3F812321#32) [] := by decide +kernel
theorem test_decode_lfoSetDepth : decode 32 .ctl [0x52010000#32, 0x3F812A98#32] =
    .command (.lfoSetDepth 1 0x3F812A98#32) [] := by decide +kernel
theorem test_decode_lfoSetWave : decode 32 .ctl [0x53000200#32] =
    .command (.lfoSetWave 0 512#16) [] := by decide +kernel
theorem test_decode_lfoSetSync : decode 32 .ctl [0x54018003#32] =
    .command (.lfoSetSync 1 32771#16) [] := by decide +kernel
theorem test_decode_lfoSetBpm : decode 32 .ctl [0x55000000#32, 0x3F8140FD#32] =
    .command (.lfoSetBpm 0 0x3F8140FD#32) [] := by decide +kernel
theorem test_decode_lfoSetDiv : decode 32 .ctl [0x56010000#32, 0x3F814874#32] =
    .command (.lfoSetDiv 1 0x3F814874#32) [] := by decide +kernel
theorem test_decode_lfoSeed : decode 32 .aud [0x57000000#32, 0x3F814FEB#32] =
    .command (.lfoSeed 0 0x3F814FEB#32) [] := by decide +kernel
theorem test_decode_lfoProcess : decode 32 .aud [0x58010000#32] =
    .command (.lfoProcess 1) [] := by decide +kernel
theorem test_decode_lfoGetValue : decode 32 .ctl [0x59000000#32] =
    .command (.lfoGetValue 0) [] := by decide +kernel
theorem test_decode_lfoProcessBlock : decode 32 .aud [0x5A018003#32] =
    .command (.lfoProcessBlock 1 32771#16) [] := by decide +kernel
theorem test_decode_fxReset : decode 32 .aud [0x60000000#32] =
    .command .fxReset [] := by decide +kernel
theorem test_decode_fxSet : decode 32 .ctl [0x61000003#32, 0x3F81753E#32] =
    .command (.fxSet 3 0x3F81753E#32) [] := by decide +kernel
theorem test_decode_fxLatch : decode 32 .aud [0x62000000#32] =
    .command .fxLatch [] := by decide +kernel
theorem test_decode_fxModAdd : decode 32 .aud [0x63000005#32, 0x3F81842C#32] =
    .command (.fxModAdd 5 0x3F81842C#32) [] := by decide +kernel
theorem test_decode_fxProcess : decode 32 .aud [0x68000000#32, 0x3F818BA3#32] =
    .command (.fxProcess 0x3F818BA3#32) [] := by decide +kernel
theorem test_decode_fxGetParam : decode 32 .ctl [0x69000002#32] =
    .command (.fxGetParam 2) [] := by decide +kernel

/-! ## Decoding: what section 2.1 of the vectors refuses -/

theorem test_refuses_zero_word : decode 32 .aud [0x00000000#32] = .invalid .reservedHeader := by decide
theorem test_refuses_ones_word : decode 32 .ctl [0xFFFFFFFF#32] = .invalid .reservedHeader := by decide
theorem test_refuses_ar_13 : decode 32 .aud [0x1D000000#32] = .invalid .reservedHeader := by decide
theorem test_refuses_rfb_6 : decode 32 .aud [0x26000000#32] = .invalid .reservedHeader := by decide
theorem test_refuses_reset_idx : decode 32 .aud [0x10000001#32] = .invalid .reservedField := by decide
theorem test_refuses_osc_bit7 : decode 32 .aud [0x19000080#32] = .invalid .reservedField := by decide
theorem test_refuses_env_bit1 : decode 32 .aud [0x30000002#32] = .invalid .reservedField := by decide
theorem test_refuses_fx_inst : decode 32 .aud [0x60010000#32] = .invalid .reservedField := by decide
theorem test_refuses_slot_32 : decode 32 .aud [0x10200000#32] = .invalid .instanceOutOfRange := by decide
theorem test_admits_slot_32_of_33 : decode 33 .aud [0x10200000#32] = .command (.arReset 32) [] := by decide
theorem test_refuses_slot_255_of_255 : decode 255 .aud [0x10FF0000#32] = .invalid .instanceOutOfRange := by decide
theorem test_refuses_lfo_2 : decode 32 .aud [0x58020000#32] = .invalid .instanceOutOfRange := by decide
theorem test_refuses_param_6 : decode 32 .aud [0x61000006#32, 0#32] = .invalid .paramOutOfRange := by decide
theorem test_ctl_refuses_process : decode 32 .ctl [0x18000000#32] = .invalid .notAdmitted := by decide
theorem test_ctl_admits_get_level : decode 32 .ctl [0x39000000#32] = .command (.envGetLevel 0 0) [] := by decide
theorem test_waits_for_operands : decode 32 .aud [0x17030000#32, 0x3E800000#32] = .incomplete := by decide

/-! ## Literals and constants against the patterns the vectors print -/

theorem test_constants :
    [kArHi, kRfbHi, kUni, envAtkTarget, envEps, ms, rvG, F.lit 95 100, F.lit 7 10, F.lit 1 100].map
        (F.bitsOr 0#32) =
      [0x3EE66666#32, 0x3EF5C28F#32, 0x3F34FDF4#32, 0x3F8CCCCD#32, 0x38D1B717#32, 0x3A83126F#32,
        0x3F570A3D#32, 0x3F733333#32, 0x3F333333#32, 0x3C23D70A#32] := by decide +kernel
theorem test_constants_whole :
    [F.lit 10 1, F.lit 440 1, F.lit 48000 1, F.lit 20000 1, F.lit 120 1, fbQSpan, fbQMax, a4].map
        (F.bitsOr 0#32) =
      [0x41200000#32, 0x43DC0000#32, 0x473B8000#32, 0x469C4000#32, 0x42F00000#32, 0x41680000#32,
        0x41700000#32, 0x43DC0000#32] := by
  decide +kernel

/-! ## Meanings: the vectors of part 2 and the programs of part 3 -/

/-- The state after one command; the state itself where the command is refused. -/
def after (i : Instr) (s : State) : State :=
  match exec i s with
  | .next t => t
  | _ => s

/-- The pattern of a value that is not a NaN. -/
def pat (x : F) : Word := F.bitsOr 0#32 x

/-- A model with few entries: amplitudes, then offsets. -/
def smallModel (amps offs : List Word) : List Word :=
  (amps ++ List.replicate (64 - amps.length) 0#32) ++ (offs ++ List.replicate (64 - offs.length) 0#32)

/-- A reset resonator with model A and the additive update at morph zero. -/
def tunedAr (ops : List Word) : ArState :=
  arUpdate referenceParams (F.lit 48000 1)
    { ArState.reset with model := ArState.reset.model.set 0 (loadedModel referenceSettings ops) } F.zero F.zero

/-- A reset bank with model A at resonance one half. -/
def tunedRfb : RfbState :=
  rfbUpdate referenceParams (F.lit 48000 1)
    { RfbState.reset with
      model := RfbState.reset.model.set 0 (loadedModel referenceSettings (smallModel [0x3F800000#32] [])) }
    F.zero F.zero (F.lit 1 2) F.zero

/-- Section 2.2. -/
theorem test_sys_prepare_default :
    pat (after (.sysPrepare 0#16 0x7FC00000#32) State.reset).sys.fs = 0x473B8000#32 := by
  decide +kernel
/-- Section 2.2: 8000. -/
theorem test_sys_prepare_low :
    pat (after (.sysPrepare 0#16 0x42C80000#32) State.reset).sys.fs = 0x45FA0000#32 := by
  decide +kernel
/-- Section 2.10. -/
theorem test_sys_reset_keeps_rate :
    (after .sysReset (after (.sysPrepare 512#16 0x472C4400#32) State.reset)).sys =
      ⟨F.asF 0x472C4400#32, 512#16⟩ := by
  decide +kernel
/-- Section 2.10. -/
theorem test_sys_reset_clears_level :
    pat (after .sysReset (State.reset.setEnv 0 1 { EnvState.reset with level := F.one })).env[(0 : Fin
      nvMax)][(1 : Fin 2)].level = 0#32 := by
  decide +kernel
/-- Section 2.2. -/
theorem test_ar_set_base_nan :
    pat (after (.arSetBase 0 0x7FC00000#32) State.reset).ar[(0 : Fin nvMax)].base = 0x43DC0000#32 := by
  decide +kernel
/-- Section 2.2. -/
theorem test_ar_set_base_low :
    pat (after (.arSetBase 0 0xC2C80000#32) State.reset).ar[(0 : Fin nvMax)].base = 0#32 := by
  decide +kernel
/-- Section 2.2. -/
theorem test_ar_set_stretch_inf :
    pat (after (.arSetStretch 0 0xFF800000#32) State.reset).ar[(0 : Fin nvMax)].stretch = 0#32 := by
  decide +kernel
/-- R164. -/
theorem test_ar_set_entropy_keeps_flag :
    (after (.arSetEntropy 3 0x3F000000#32) (State.reset.setAr 3 { ArState.reset with dirty := false })).ar[(3
      : Fin nvMax)].dirty = false := by
  decide +kernel
/-- Section 2.2: -0.0 is in range. -/
theorem test_ar_set_detune_minus_zero :
    pat (after (.arSetDetune 0 0x80000000#32) State.reset).ar[(0 : Fin nvMax)].detune = 0x80000000#32 := by
  decide +kernel
/-- R166. -/
theorem test_ar_seed :
    (after (.arSeed 31 0xDEADBEEF#32) State.reset).ar[(31 : Fin nvMax)].rng = 0xDEADBEEF#32 := by
  decide +kernel
/-- R160. -/
theorem test_ar_reset_keeps_rng :
    (after (.arReset 0) (State.reset.setAr 0 { ArState.reset with rng := 7#32 })).ar[(0 : Fin nvMax)].rng
      = 7#32 := by
  decide +kernel
/-- R161: the 128th operand is off[63]. -/
theorem test_ar_load_model_last_offset :
    pat (after (.arLoadModel 1 3 (smallModel [] (List.replicate 63 0#32 ++ [0x42C80000#32])))
      State.reset).ar[(1 : Fin nvMax)].model[(3 : Fin nslot)].off[(63 : Fin np)] = 0x42C80000#32 := by
  decide +kernel
/-- R39. -/
theorem test_rfb_load_model_is_its_own :
    ((after (.rfbLoadModel 1 0 (smallModel [0x3F800000#32] [])) State.reset).ar[(1 : Fin nvMax)].model[(0
      : Fin nslot)].valid, (after (.rfbLoadModel 1 0 (smallModel [0x3F800000#32] []))
      State.reset).rfb[(1 : Fin nvMax)].model[(0 : Fin nslot)].valid) = (false, true) := by
  decide +kernel
/-- S6. -/
theorem test_ar_update_norm :
    (pat (tunedAr (smallModel [0x3F800000#32] [])).norm, pat (tunedAr (smallModel [0x3F800000#32]
      [])).osc[(0 : Fin nosc)].inc) = (0x3F800000#32, 0x3C162FC9#32) := by
  decide +kernel
/-- Section 2.4: 21600 is the limit itself and is not muted. -/
theorem test_ar_update_guard_is_strict :
    (fun m : ModelState => pat (arUpdate referenceParams (F.lit 48000 1)
      { ArState.reset with base := F.lit 20000 1, model := ArState.reset.model.set 0 m } F.zero
      F.zero).amp[(0 : Fin nosc)])
      (loadedModel referenceSettings (smallModel [0x3F800000#32] [0x44C80000#32])) = 0x3F800000#32 := by
  decide +kernel
/-- S6. -/
theorem test_ar_process_second_sample :
    (fun a : ArState => pat (arRender referenceParams (arStep referenceParams a)).2)
      { ArState.reset.setOsc 0 ⟨F.zero, F.lit 440 1, F.asF 0x3C162FC9#32⟩ with
        amp := ArState.reset.amp.set 0 F.one, norm := F.one } = 0x3D6BC841#32 := by
  decide +kernel
/-- S4: the state after 128 draws. -/
theorem test_ar_process_draws_128 :
    (arRender referenceParams { ArState.reset with rng := 1#32, entropy := F.lit 1 2 }).1 = 0x0488B481#32 := by
  decide +kernel
/-- R169. -/
theorem test_ar_get_amp :
    (after (.arGetAmp 0 0) (State.reset.setAr 0
      { ArState.reset with amp := ArState.reset.amp.set 0 F.one, norm := F.lit 1 2 })).qa =
      [0x3F000000#32] := by
  decide +kernel
/-- Section 2.2. -/
theorem test_po_set_freq_limit :
    ((after (.poSetFreq 0 0 0x47C35000#32) State.reset).ar[(0 : Fin nvMax)].osc[(0 : Fin nosc)].freq,
      (after (.poSetFreq 0 0 0x47C35000#32) State.reset).ar[(0 : Fin nvMax)].osc[(0 : Fin nosc)].inc)
      = (F.lit 24000 1, F.lit 1 2) := by
  decide +kernel
/-- R136. -/
theorem test_po_reset_keeps_inc :
    (after (.poReset 2 9)
      (State.reset.setAr 2 (ArState.reset.setOsc 9 ⟨F.lit 1 2, F.one, F.lit 1 4⟩))).ar[(2 : Fin nvMax)].osc[(9 : Fin nosc)] =
      ⟨F.zero, F.one, F.lit 1 4⟩ := by
  decide +kernel
/-- R21: the power at the exact value of its arguments: (-2)^2 = 4, (-2)^3 = -8 (arithmetic). -/
theorem test_power_of_a_negative_base :
    refPow (F.neg (F.ofNat 2)) (F.ofNat 2) = F.ofNat 4 ∧
      refPow (F.neg (F.ofNat 2)) (F.ofNat 3) = F.neg (F.ofNat 8) := by decide +kernel

/-- R21, R18: exact ties go to even: 259^3 = 67081^(3/2) = 17373979, 2^75 to the -2 is half the least value
(arithmetic). -/
theorem test_power_ties_to_even :
    refPow (F.ofNat 259) (F.ofNat 3) = F.ofNat 17373980 ∧ refPow (F.ofNat 67081) (F.lit 3 2) = F.ofNat 17373980 ∧
      refPow (F.ofNat (2 ^ 75)) (F.neg (F.ofNat 2)) = F.zero := by decide +kernel

/-- Section 2.3. -/
theorem test_po_step_quarter :
    (pat (poOut referenceParams OscState.reset (F.lit 1 4)), pat (poOut referenceParams OscState.reset
      (F.neg (F.lit 1 4)))) = (0x3F800000#32, 0xBF800000#32) := by
  decide +kernel
/-- Section 2.3, at 12000 Hz. -/
theorem test_po_step_third_sample :
    (pat (poOut referenceParams (poAdvance (poAdvance ⟨F.zero, F.zero, F.lit 1 4⟩)) F.zero), (poAdvance
      (poAdvance (poAdvance (poAdvance ⟨F.zero, F.zero, F.lit 1 4⟩)))).phase) = (0xB3BBBD2E#32,
      F.zero) := by
  decide +kernel
/-- R200. -/
theorem test_rfb_reset_clears :
    (after (.rfbReset 0) (State.reset.setRfb 0 { RfbState.reset with
      filt := RfbState.reset.filt.set 127 { FiltState.reset with z1 := .nan, a1 := F.one } })).rfb[(0 : Fin nvMax)].filt[(127 : Fin nosc)] =
      { FiltState.reset with a1 := F.one } := by
  decide +kernel
/-- R202: even when the value is the same. -/
theorem test_rfb_set_base_sets_flag :
    (after (.rfbSetBase 0 0x43DC0000#32) (State.reset.setRfb 0 { RfbState.reset with dirty := false })).rfb[(0
      : Fin nvMax)].dirty = true := by
  decide +kernel
/-- Section 2.5. -/
theorem test_rfb_update_filter_0 :
    (fun f : FiltState => [pat f.b0, pat f.b2, pat f.a1, pat f.a2, pat f.amp]) tunedRfb.filt[(0 : Fin
      nosc)] = [0x3A14961A#32, 0xBA14961A#32, 0xBFFF6E3F#32, 0x3F7FB5B6#32, 0x3F800000#32] := by
  decide +kernel
/-- Section 2.5: filters 52 to 63 are zeroed. -/
theorem test_rfb_update_high_guard :
    (fun i => pat (rfbTuned referenceParams (F.lit 48000 1) RfbState.reset F.zero F.zero (F.lit 1 2)
      F.zero i).a2 != 0#32) 52 = false := by
  decide +kernel
/-- Section 2.5. -/
theorem test_rfb_process_impulse :
    pat (rfbOut (rfbStep tunedRfb F.one) F.zero) = 0x3A944181#32 := by
  decide +kernel
/-- Section 2.5. -/
theorem test_rfb_process_power_on :
    (after (.rfbProcess 0 0x3F800000#32) State.reset).qa = [0#32] := by
  decide +kernel
/-- R207. -/
theorem test_rfb_get_amp :
    (after (.rfbGetAmp 0 127) (State.reset.setRfb 0 { RfbState.reset with
      filt := RfbState.reset.filt.set 127 { FiltState.reset with amp := F.one } })).qa =
      [0x3F800000#32] := by
  decide +kernel
/-- Section 2.2. -/
theorem test_env_set_attack_low :
    pat (after (.envSetAttack 0 0 0#32) State.reset).env[(0 : Fin nvMax)][(0 : Fin 2)].attMs =
      0x3C23D70A#32 := by
  decide +kernel
/-- R227. -/
theorem test_env_set_decay :
    pat (after (.envSetDecay 0 1 0x41A00000#32) State.reset).env[(0 : Fin nvMax)][(1 : Fin 2)].decMs =
      0x41A00000#32 := by
  decide +kernel
/-- Section 2.2. -/
theorem test_env_set_sustain_inf :
    pat (after (.envSetSustain 0 0 0x7F800000#32) State.reset).env[(0 : Fin nvMax)][(0 : Fin 2)].sus =
      0x3F333333#32 := by
  decide +kernel
/-- R229: 60000. -/
theorem test_env_set_release_high :
    pat (after (.envSetRelease 31 1 0x7F7FFFFF#32) State.reset).env[(31 : Fin nvMax)][(1 : Fin 2)].relMs =
      0x476A6000#32 := by
  decide +kernel
/-- R230. -/
theorem test_env_note_on :
    (after (.envNoteOn 0 0) State.reset).env[(0 : Fin nvMax)][(0 : Fin 2)].st = .attack := by
  decide +kernel
/-- R231. -/
theorem test_env_note_off_idle :
    (after (.envNoteOff 0 0) State.reset).env[(0 : Fin nvMax)][(0 : Fin 2)].st = .idle := by
  decide +kernel
/-- R231. -/
theorem test_env_note_off_attack :
    (after (.envNoteOff 0 0) (after (.envNoteOn 0 0) State.reset)).env[(0 : Fin nvMax)][(0 : Fin 2)].st =
      .release := by
  decide +kernel
/-- R225. -/
theorem test_env_reset :
    (after (.envReset 0 0) (State.reset.setEnv 0 0 { EnvState.reset with st := .decay, level := F.one })).env[(0
      : Fin nvMax)][(0 : Fin 2)] = EnvState.reset := by
  decide +kernel
/-- Section 2.6 and S2. -/
theorem test_env_process_multipliers :
    (fun n : EnvState => [pat n.mA, pat n.mD, pat n.mR, pat n.level]) (envProcess referenceParams (F.lit
      48000 1) { EnvState.reset with st := .attack }) = [0x3F7F779C#32, 0x3F7FF259#32, 0x3F7FFD45#32,
      0x3B160800#32] := by
  decide +kernel
/-- Section 2.6: the stall exit. -/
theorem test_env_process_decay_stall :
    (fun n : EnvState => (n.st, pat n.level)) (envStep { EnvState.reset with
      st := .decay, level := F.asF 0x3F333C92#32, mD := F.asF 0x3F7FF259#32 }) =
      (.sustain, 0x3F333333#32) := by
  decide +kernel
/-- R238. -/
theorem test_env_get_level :
    (after (.envGetLevel 0 1) (State.reset.setEnv 0 1 { EnvState.reset with level := F.one })).qa =
      [0x3F800000#32] := by
  decide +kernel
/-- R239, R88. -/
theorem test_env_get_state_on_ctl :
    (fun s : State => (s.qa, s.qc)) (after (.envGetState 0 0)
      { after (.envNoteOn 0 0) State.reset with port := .ctl }) = ([], [1#32]) := by
  decide +kernel
/-- Section 2.2. -/
theorem test_fb_set_cutoff_low :
    pat (after (.fbSetCutoff 0 0x41200000#32) State.reset).fb[(0 : Fin nvMax)].cutoff = 0x41A00000#32 := by
  decide +kernel
/-- Section 2.2. -/
theorem test_fb_set_res_low :
    pat (after (.fbSetRes 0 0xBF800000#32) State.reset).fb[(0 : Fin nvMax)].res = 0#32 := by
  decide +kernel
/-- Section 2.7. -/
theorem test_fb_set_mode_9 :
    (after (.fbSetMode 0 9#16) (State.reset.setFb 0 { FbState.reset with mode := .notch })).fb[(0 : Fin
      nvMax)].mode = .lowPass := by
  decide +kernel
/-- R255. -/
theorem test_fb_reset :
    (after (.fbReset 5) (State.reset.setFb 5 { FbState.reset with z1 := .nan, z2 := F.one, b1 := F.one })).fb[(5
      : Fin nvMax)] = { FbState.reset with b1 := F.one } := by
  decide +kernel
/-- Section 2.7. -/
theorem test_fb_process_high_pass :
    (fun b : FbState => [pat b.b0, pat b.b1, pat b.b2, pat b.a1, pat b.a2, pat (fbOut (fbAdvance b F.one) F.zero)])
      (fbRecompute referenceParams (F.lit 48000 1) { FbState.reset with cutoff := F.lit 1000 1, res := F.lit 1 2, mode := .highPass }) =
      [0x3F7AEF50#32, 0xBFFAEF50#32, 0x3F7AEF50#32, 0xBFF9DB59#32, 0x3F780690#32, 0xBD40B120#32] := by
  decide +kernel
/-- Section 2.7. -/
theorem test_fb_process_power_on :
    (fun b : FbState => [pat b.b0, pat b.b1, pat b.a1, pat b.a2]) (fbFresh referenceParams (F.lit 48000 1)
      FbState.reset) = [0x3F1F3BF4#32, 0x3F9F3BF4#32, 0x3F93CD3D#32, 0x3EAAAAB0#32] := by
  decide +kernel
/-- Section 2.2. -/
theorem test_lfo_set_rate_high :
    pat (after (.lfoSetRate 0 0x447A0000#32) State.reset).lfo[(0 : Fin nlfo)].rate = 0x42C80000#32 := by
  decide +kernel
/-- R277, R50. -/
theorem test_lfo_set_depth_keeps_flag :
    (after (.lfoSetDepth 1 0x3F000000#32) (State.reset.setLfo 1 { LfoState.reset with dirty := false })).lfo[(1
      : Fin nlfo)] = { LfoState.reset with dirty := false, depth := F.lit 1 2 } := by
  decide +kernel
/-- Section 2.1. -/
theorem test_lfo_set_wave_65535 :
    (after (.lfoSetWave 1 65535#16) (State.reset.setLfo 1 { LfoState.reset with wave := .square })).lfo[(1
      : Fin nlfo)].wave = .sine := by
  decide +kernel
/-- R279. -/
theorem test_lfo_set_sync :
    (after (.lfoSetSync 0 1#16) State.reset).lfo[(0 : Fin nlfo)].sync = true := by
  decide +kernel
/-- R280. -/
theorem test_lfo_set_bpm :
    pat (after (.lfoSetBpm 0 0x43480000#32) State.reset).lfo[(0 : Fin nlfo)].bpm = 0x43480000#32 := by
  decide +kernel
/-- Section 2.2: 1/64. -/
theorem test_lfo_set_div_low :
    pat (after (.lfoSetDiv 0 0#32) State.reset).lfo[(0 : Fin nlfo)].div = 0x3C800000#32 := by
  decide +kernel
/-- R282. -/
theorem test_lfo_seed :
    (after (.lfoSeed 1 1#32) State.reset).lfo[(1 : Fin nlfo)].rng = 1#32 := by
  decide +kernel
/-- R275. -/
theorem test_lfo_reset_keeps_rng :
    (after (.lfoReset 0)
      (State.reset.setLfo 0 { LfoState.reset with rng := 9#32, last := F.one, shNext := F.one })).lfo[(0 : Fin nlfo)] =
      { LfoState.reset with rng := 9#32 } := by
  decide +kernel
/-- Section 2.8: 3 Hz. -/
theorem test_lfo_process_synced_increment :
    pat (lfoFresh (F.lit 48000 1) { LfoState.reset with sync := true, div := F.lit 3 2 }).inc =
      0x3883126F#32 := by
  decide +kernel
/-- R286. -/
theorem test_lfo_process_wrap_draws :
    (fun l : LfoState => (pat l.shPrev, pat l.shNext, l.rng)) (lfoStep referenceParams { LfoState.reset with
      wave := .sampleHold, rng := 1#32, phase := F.asF 0x3F7FFFFF#32, inc := F.asF 0x3B088889#32
      dirty := false }) = (0#32, 0xBF06EF4E#32, 0x3C88596C#32) := by
  decide +kernel
/-- Section 2.8. -/
theorem test_lfo_block_64_phase :
    pat (lfoProcessBlock referenceParams (F.lit 48000 1) 64 { LfoState.reset with rate := F.lit 100 1 }).phase
      = 0x3E088889#32 := by
  decide +kernel
/-- Section 2.8: the second block. -/
theorem test_lfo_block_64_sine :
    pat (lfoSample { LfoState.reset with phase := F.asF 0x3E088889#32 }) = 0x3F3DE8CE#32 := by
  decide +kernel
/-- R290. -/
theorem test_lfo_get_value :
    (after (.lfoGetValue 1) (State.reset.setLfo 1 { LfoState.reset with last := F.one })).qa =
      [0x3F800000#32] := by
  decide +kernel
/-- Section 2.2. -/
theorem test_fx_set_feedback_high :
    pat (after (.fxSet 3 0x40000000#32) State.reset).fx.pend[(3 : Fin nfx)] = 0x3F733333#32 := by
  decide +kernel
/-- Section 2.2. -/
theorem test_fx_set_time_default :
    pat (after (.fxSet 2 0x7F800000#32) State.reset).fx.pend[(2 : Fin nfx)] = 0x3E800000#32 := by
  decide +kernel
/-- Section 2.9. -/
theorem test_fx_latch :
    (fun s : State => (pat s.fx.cur[(0 : Fin nfx)], pat (after .fxLatch s).fx.cur[(0 : Fin nfx)])) (after
      (.fxSet 0 0x3F000000#32) State.reset) = (0x3F800000#32, 0x3F000000#32) := by
  decide +kernel
/-- Section 2.9. -/
theorem test_fx_mod_add_limit :
    pat (after (.fxModAdd 0 0x3F400000#32) (after .fxLatch (after (.fxSet 0 0x3F000000#32)
      State.reset))).fx.cur[(0 : Fin nfx)] = 0x3F800000#32 := by
  decide +kernel
/-- Section 2.9. -/
theorem test_fx_mod_add_nan :
    pat (after (.fxModAdd 0 0x7FC00000#32) State.reset).fx.cur[(0 : Fin nfx)] = 0x3F800000#32 := by
  decide +kernel
/-- R312. -/
theorem test_fx_reset_gain :
    pat (after .fxReset (State.reset.setFx
      { FxState.reset with cur := FxState.reset.cur.set 0 (F.lit 1 2), g := F.zero })).fx.g =
      0x3F000000#32 := by
  decide +kernel
/-- Section 2.9. -/
theorem test_fx_process_master_0 :
    pat (fxProcess referenceParams referenceSettings (F.lit 48000 1) { FxState.reset with cur := FxState.reset.cur.set 0 F.zero }
      F.one).2 = 0x3F7FBE77#32 := by
  decide +kernel
/-- Section 2.9. -/
theorem test_fx_process_saturation :
    (pat (satFn referenceParams (F.lit 1 2) F.one), pat (satFn referenceParams (F.neg (F.lit 3 1)) F.one),
      pat (satFn referenceParams (F.lit 2 1) (F.lit 1 2))) = (0x3F300000#32, 0xBF800000#32,
      0x3FC00000#32) := by
  decide +kernel
/-- Section 2.9: the impulse written at sample 0 comes back at sample 480. -/
theorem test_fx_chorus_tap :
    pat (chorusKernel referenceParams ⟨⟨[(0, F.one)]⟩, 480, []⟩ F.zero (F.lit 1 2)).2 = 0x3F000000#32 := by
  decide +kernel
/-- Section 2.9: at sample 1116 the impulse comes back and 0.84 of it is written. -/
theorem test_fx_reverb_comb :
    (fun r : KernelState × F => (pat r.2, pat (r.1.line.get 1116))) (reverbKernel referenceParams
      ⟨⟨[(0, F.one)]⟩, 1116, []⟩ F.zero (F.lit 1 2)) = (0x3F000000#32, 0x3F570A3D#32) := by
  decide +kernel
/-- Section 2.9. -/
theorem test_delay_lengths :
    [delayLength referenceSettings (F.lit 48000 1) (F.lit 1 1000), delayLength referenceSettings (F.lit 48000 1) (F.lit 105 10000),
      delayLength referenceSettings (F.lit 192000 1) (F.lit 2 1)] = [48, 504, 131071] := by
  decide +kernel
/-- R317. -/
theorem test_fx_get_param :
    (after (.fxGetParam 2) State.reset).qa = [0x3E800000#32] := by
  decide +kernel
/-! ## Channels, ports and the written form -/

/-- P3, the first order: CTL's write is taken before AUD's latch when the agents' order says so. -/
theorem test_order_is_followed :
    ({ State.reset with cmdA := [0x62000000#32], cmdC := [0x61000000#32, 0x3F000000#32], order := [.ctl] }
      : State).served =
      .ctl := by
  decide +kernel

/-- The table word of ENV.SET_RELEASE on slot 31: the operand word is bits 63 to 32 (R104). -/
theorem test_decodeTableWord :
    decodeTableWord 64 0x43FA0000341F0001 = some (.envSetRelease 31 1 0x43FA0000#32) := by decide +kernel

/-- An operand word the table gives no bits is zero. -/
theorem test_decodeTableWord_short : decodeTableWord 32 0x12050000 = some (.arSetBase 5 0#32) := by
  decide +kernel

/-- Four bytes, least significant first, are one word (R84). -/
theorem test_wordsOfBytes : wordsOfBytes [0x78#8, 0x56#8, 0x34#8, 0x12#8] = [0x12345678#32] := by
  decide +kernel

/-- The number of ENV[3][1].rel_ms is (3, 4, 3, 1) (R104). -/
theorem test_register_number : commandNumber (.envSetRelease 3 1 0#32) = (3, 4, 3, 1) := by decide

/-- The written form of a command (R116). -/
theorem test_asmText :
    asmText (.envSetRelease 31 1 0x43FA0000#32) = "env.set_release v31.e1, 500.0" := by decide +kernel

/-! ## Witnesses: the hypotheses of each statement are met, clause by clause, at the ends of their ranges

Each theorem names the statement it serves and shows concrete states and operands that meet its hypotheses. -/

/-- 128 zero operands: a LOAD_MODEL term that stands for a command. -/
def zeroModel : List Word := List.replicate 128 0#32

theorem test_witness_DecodeOfEncodeIsTheCommand :
    (Instr.envSetRelease 31 1 0xFFFFFFFF#32).WellFormed 32 ∧ (Instr.arLoadModel 31 3 zeroModel).WellFormed 32 ∧
      (Instr.poStep 31 127 0#32).WellFormed 32 ∧ (Instr.lfoProcessBlock 1 65535#16).WellFormed 32 := by
  decide +kernel

theorem test_witness_DecodedWordsAreTheEncoding :
    decode 32 .ctl [0x341F0001#32, 0#32, 7#32] = .command (.envSetRelease 31 1 0#32) [7#32] := by decide +kernel

/-- One command CTL admits and one it does not. -/
theorem test_witness_CtlAdmitsExactlyItsTwentyCommands :
    (Instr.fxSet 5 0#32).WellFormed 32 ∧ (Instr.fxLatch).WellFormed 32 ∧
      decode 32 .ctl (encode (.fxSet 5 0#32)) = .command (.fxSet 5 0#32) [] ∧
      decode 32 .ctl (encode .fxLatch) = .invalid .notAdmitted := by
  decide +kernel

/-- The ends of the listed pairs, unit by unit, and a served channel that starts with such a header. -/
theorem test_witness_ReservedHeadersAreExactlyTheListedPairs :
    (reservedPair 0 0 && reservedPair 0 3 && reservedPair 1 13 && reservedPair 2 3 && reservedPair 2 6 &&
      reservedPair 2 10 && reservedPair 3 7 && reservedPair 3 11 && reservedPair 4 4 && reservedPair 4 7 &&
      reservedPair 4 9 && reservedPair 5 11 && reservedPair 6 4 && reservedPair 6 7 && reservedPair 6 10 &&
      reservedPair 7 0 && reservedPair 15 15) = true ∧
    (reservedPair 0 1 || reservedPair 0 2 || reservedPair 1 12 || reservedPair 2 2 || reservedPair 2 7 ||
      reservedPair 2 9 || reservedPair 3 6 || reservedPair 3 8 || reservedPair 3 10 || reservedPair 4 3 ||
      reservedPair 4 8 || reservedPair 5 10 || reservedPair 6 3 || reservedPair 6 8 ||
      reservedPair 6 9) = false ∧
    (let s : State := { State.reset with cmdA := [0xFFFFFFFF#32, 1#32] }
     s.channel s.served = [0xFFFFFFFF#32, 1#32]) := by
  refine ⟨by decide, by decide, ?_⟩
  simp only [State.served]
  cases h : State.preferred { State.reset with cmdA := [0xFFFFFFFF#32, 1#32] } <;> decide +kernel

/-- Each clause at both ends: fields one above their bound, with the fields after them as they should be. -/
theorem test_witness_BadFieldsAreRefusedByName :
    ([0x01000001#32, 0x02010000#32, 0x11000004#32, 0x19000080#32, 0x30000002#32, 0x40000001#32,
        0x60010000#32].all fun h => !reservedPair (unitField h) (funcField h) && mustBeZeroBroken h) = true ∧
    ([0x10200000#32, 0x10FF0000#32, 0x3A200001#32, 0x50020000#32, 0x5AFFFFFF#32].all fun h =>
      !reservedPair (unitField h) (funcField h) && !mustBeZeroBroken h && instanceBroken 32 h) = true ∧
    ([0x61000006#32, 0x63000006#32, 0x6900FFFF#32].all fun h =>
      !reservedPair (unitField h) (funcField h) && !mustBeZeroBroken h && !instanceBroken 32 h &&
        paramBroken h) = true := by
  refine ⟨?_, ?_, ?_⟩ <;> decide +kernel

theorem test_witness_IncompleteCommandWaits :
    ((Instr.arUpdate 3 0#32 0#32).WellFormed 32 ∧ (Instr.arUpdate 3 0#32 0#32).admittedOn .aud = true ∧
      0 < (encode (.arUpdate 3 0#32 0#32)).length ∧ 2 < (encode (.arUpdate 3 0#32 0#32)).length) ∧
    (let s : State := { State.reset with cmdA := [0x17030000#32, 0#32], cmdC := [0x41000000#32] }
     s.head .aud = .incomplete ∧ s.head .ctl = .incomplete) := by
  decide +kernel

theorem test_witness_IdleMachineHoldsItsState :
    (let s : State := State.reset.setEnv 0 1 { EnvState.reset with level := F.one }
     s.cmdA = [] ∧ s.cmdC = []) := ⟨rfl, rfl⟩

/-- Two ports, each with a command: the order names the one served. -/
def twoPorts : State :=
  { State.reset with
    cmdA := encode .fxLatch ++ [1#32]
    cmdC := encode (.fxSet 0 0x3F000000#32) }

theorem test_witness_StepRunsTheDecodedCommand :
    (let s : State := { twoPorts with order := [.aud] }
     Instr.fxLatch.WellFormed 32 ∧ Instr.fxLatch.admittedOn .aud = true ∧ s.served = .aud ∧
       s.channel .aud = encode .fxLatch ++ [1#32]) ∧
    (let s : State := { twoPorts with order := [.ctl, .aud] }
     (Instr.fxSet 0 0x3F000000#32).WellFormed 32 ∧ (Instr.fxSet 0 0x3F000000#32).admittedOn .ctl = true ∧
       s.served = .ctl ∧ s.channel .ctl = encode (.fxSet 0 0x3F000000#32) ++ []) := by
  decide +kernel

/-- Only AUD ready, only CTL ready, and both, with an order and without one. -/
theorem test_witness_ServedPortIsReadyAndOrdered :
    (let s : State := { twoPorts with cmdC := [0x61000000#32] }
     s.ready .aud = true ∧ s.ready .ctl = false) ∧
    (let s : State := { twoPorts with cmdA := [] }
     s.ready .aud = false ∧ s.ready .ctl = true) ∧
    twoPorts.ready .aud = true ∧ twoPorts.ready .ctl = true ∧ twoPorts.order = [] ∧
    ({ twoPorts with order := [.ctl, .aud] } : State).order = .ctl :: [.aud] := by
  decide +kernel

theorem test_witness_WithFetchWordRunsTheCommand :
    decodeTableWord 64 0x3F800000610000005 = none ∧
      decodeTableWord 64 0x3F80000061000005 = some (.fxSet 5 0x3F800000#32) ∧
      (Instr.fxSet 5 0x3F800000#32).WellFormed State.reset.settings.nv := by
  decide +kernel

theorem test_witness_AudStreamRunsToCompletion :
    (let is : List Instr := [.fxLatch, .arGetAmp 31 127, .fxSet 5 7#32]
     (∀ i ∈ is, i.WellFormed State.reset.settings.nv) ∧
       ({ State.reset with cmdA := is.flatMap encode } : State).cmdA = is.flatMap encode ∧
       State.reset.cmdC = []) := by
  refine ⟨by decide, rfl, rfl⟩

/-- The least and the greatest magnitude of a finite value are finite, and one is not zero. -/
theorem test_witness_OperationsRoundTheExactResult :
    0 < 1 ∧ (F.asF 0x80000001#32).isFinite = true ∧ (F.asF 0x7F7FFFFF#32).isFinite = true ∧
      toRat (F.asF 0x3F800000#32) ≠ 0 ∧ toRat (F.asF 0x80000001#32) ≠ 0 := by
  refine ⟨by decide, by decide +kernel, by decide +kernel, by decide +kernel, by decide +kernel⟩

theorem test_witness_ExceptionalCasesGiveValues :
    (1 : Fin magInf) ≠ 0 ∧ (Fin.last (magInf - 1)) ≠ (0 : Fin magInf) := by decide +kernel

theorem test_witness_FloorAndWrapAreAsDefined :
    (F.asF 0x80000001#32).isFinite = true ∧ (F.asF 0xFF7FFFFF#32).isFinite = true ∧
      (F.asF 0x7F800000#32).isFinite = false ∧ (F.asF 0x7FC00000#32).isFinite = false := by
  decide +kernel

/-- The reference table is one a machine may have. -/
theorem referenceSettings_ok : SettingsOk referenceSettings where
  slots := by decide
  line := by decide
  rows c := by cases c <;> decide +kernel
  rate := by decide +kernel
  times := by decide +kernel
  units := by decide +kernel
  lfoRate := by decide +kernel
  tempo := by decide +kernel
  depth := by decide +kernel
  delay := by decide +kernel
  cached := by decide +kernel
  freq := by decide +kernel
  smooth := by decide +kernel

/-- The five clauses, with the ends of the range of SYS.FS among them. -/
theorem test_witness_ValidatedOperandsAreInRange :
    SettingsOk referenceSettings ∧
      ((F.asF 0x7FC00000#32).isFinite = false ∧ (F.asF 0xFF800000#32).isFinite = false ∧
        inRange referenceSettings .fbCutoff (F.asF 0x41A00000#32) = true ∧
        inRange referenceSettings .fbCutoff (F.asF 0x469C4000#32) = true ∧
        (F.asF 0x41200000#32).isFinite = true ∧
        F.lt (F.asF 0x41200000#32) (referenceSettings.range .fbCutoff).lo = true ∧
        F.gt (F.asF 0x469C4001#32) (referenceSettings.range .fbCutoff).hi = true ∧
        inRange referenceSettings .sysFs (F.lit 8000 1) = true ∧
        inRange referenceSettings .sysFs (F.lit 192000 1) = true) :=
  ⟨referenceSettings_ok, by decide +kernel⟩

theorem test_witness_EnumeratedOperandsFallBackToZero :
    3 < (4#16).toNat ∧ 3 < (65535#16).toNat ∧ 5 < (6#16).toNat ∧ 5 < (65535#16).toNat ∧
      1 < (2#16).toNat ∧ 1 < (65535#16).toNat := by
  decide

/-- A kernel that keeps the last sample, counts its calls and passes its input through. -/
def passing (k : KernelState) (x _mix : F) : KernelStep :=
  ⟨[(0, x)], k.index + 1, [k.index], x⟩

theorem mem_insertEntry_finite {i : Nat} {x : F} (hx : x.isFinite = true) {es : List (Nat × F)}
    (h : ∀ e ∈ es, e.2.isFinite = true) : ∀ e ∈ insertEntry i x es, e.2.isFinite = true := by
  intro e he
  rcases mem_insertEntry he with rfl | he
  · exact hx
  · exact h e he

/-- Functions that meet every property of R21, R153, R306, R307 and R309: the machine's own numeric functions,
draw and saturation, as it uses them, and the passing kernel, at a finite state and the ends of a mix. -/
theorem test_witness_ContractsKeepEveryAllowedFunction :
    (∃ P : Params,
      (P.rawExp .nan = .nan ∧ ∀ x : F, x.isFinite = true → F.lt x F.zero = true →
        inMultiplier (P.rawExp x) = true) ∧
      (P.rawSin .nan = .nan ∧ P.rawSin F.zero = F.zero ∧ ∀ x : F, x.isFinite = true →
        F.le (F.neg F.one) (P.rawSin x) = true ∧ F.le (P.rawSin x) F.one = true) ∧
      (P.rawCos .nan = .nan ∧ ∀ x : F, x.isFinite = true →
        F.le (F.neg F.one) (P.rawCos x) = true ∧ F.le (P.rawCos x) F.one = true) ∧
      ((∀ x y : F, x = .nan ∨ y = .nan → P.rawPow x y = .nan) ∧ (∀ x : F, P.rawPow x F.one = x) ∧
        ∀ y : F, y.isFinite = true → P.rawPow F.one y = F.one) ∧
      (∀ w : Word, inDraw (P.rawBipolar w) = true) ∧
      (∀ x a : F, inUnit a = true → (P.rawSat x a).isFinite = x.isFinite) ∧
      (∀ x a : F, x.isFinite = true → F.feq a F.zero = true → F.feq (P.rawSat x a) x = true) ∧
      (∀ x a : F, inUnit a = true → sameValue (P.rawSat (F.neg x) a) (F.neg (P.rawSat x a)) = true) ∧
      P.rawChorus = passing ∧ P.rawReverb = passing) ∧
    (∀ (k : KernelState) (x mix : F), x.isFinite = true → lineFinite k.line = true → inUnit mix = true →
      (passing k x mix).out.isFinite = true ∧
      lineFinite (applyWrites k.line (passing k x mix).writes) = true ∧
      (F.feq mix F.zero = true → F.feq (passing k x mix).out x = true)) ∧
    (∀ (k : KernelState) (x mix : F), x.isFinite = false → inUnit mix = true →
      (passing k x mix).out.isFinite = false ∧
      lineFinite (applyWrites k.line (passing k x mix).writes) = false) ∧
    (F.inf false).isFinite = false ∧
    lineFinite kernelReset.line = true ∧ inUnit F.zero = true ∧ inUnit F.one = true := by
  refine ⟨⟨{ params with
      rawExp := fexp params, rawSin := fsin params, rawCos := fcos params, rawPow := fpow params
      rawBipolar := rngBipolar params, rawSat := satFn params, rawChorus := passing
      rawReverb := passing },
    ⟨rfl, fun x hx h => fexp_multiplier params x hx h⟩,
    ⟨rfl, rfl, fun x hx => ⟨(fsin_unit params x hx).1, (fsin_unit params x hx).2.1⟩⟩,
    ⟨rfl, fun x hx => ⟨(fcos_unit params x hx).1, (fcos_unit params x hx).2.1⟩⟩,
    ⟨fun x y h => by rcases h with rfl | rfl <;> simp [fpow, F.isNan], fun x => fpow_one_right params x,
      fun y hy => fpow_one_left params y hy⟩,
    fun w => rngBipolar_inDraw params w,
    fun x a ha => satFn_isFinite params x a ha, fun x a hx => satFn_zero params x a hx,
    fun x a ha => satFn_odd params x a ha, rfl, rfl⟩, fun k x mix hx hk _ => ⟨hx, ?_, fun _ => ?_⟩,
    fun k x mix hx _ => ⟨hx, lineFinite_set _ _ hx⟩, rfl, rfl, by decide +kernel, by decide +kernel⟩
  · unfold lineFinite at hk ⊢
    rw [List.all_eq_true] at hk ⊢
    exact mem_insertEntry_finite hx hk
  · exact feq_refl_of x (by rintro rfl; simp at hx)

theorem test_witness_LoadModelWritesOneWholeModel :
    zeroModel.length = 128 ∧ (List.replicate 127 0#32).length ≠ 128 ∧ (0#32 :: zeroModel).length ≠ 128 := by
  decide +kernel

theorem test_witness_AdditiveProcessResult :
    F.gt State.reset.ar[(0 : Fin nvMax)].entropy F.zero = false ∧
      F.gt (State.reset.setAr 31 { ArState.reset with entropy := F.asF 1#32 }).ar[(31 : Fin nvMax)].entropy
        F.zero = true := by
  decide +kernel

/-- The greatest phase below 1 and an increment of one half, at the reference settings. -/
theorem test_witness_OscillatorsStayInBounds :
    (let s := State.reset.setAr 31 (ArState.reset.setOsc 127 ⟨F.asF 0x3F7FFFFF#32, F.zero, F.lit 1 2⟩)
     inPhase s.ar[(31 : Fin nvMax)].osc[(127 : Fin nosc)].phase = true ∧
       s.ar[(31 : Fin nvMax)].osc[(127 : Fin nosc)].inc.isFinite = true ∧ SettingsOk s.settings) :=
  ⟨by decide +kernel, by decide +kernel, referenceSettings_ok⟩

/-- A clean bank met with its cached operands, and with other ones. -/
theorem test_witness_ResonatorUpdateResult :
    (let b : RfbState := { RfbState.reset with dirty := false }
     let same := fun w : Word => !b.dirty && F.feq (control referenceSettings .morph w) b.lastMx
     same 0x80000000#32 = true ∧ same 0x3F000000#32 = false) := by
  decide +kernel

/-- An envelope in Attack at the top of its level and one in Release, both bounded; the step of each
answers a next state. -/
theorem test_witness_EnvelopeSegmentsAreMonotone :
    ∀ st ∈ [Stage.attack, Stage.release],
      (let n : EnvState :=
          { EnvState.reset with st := st, level := F.one, mA := F.asF 0x3F7FFFFF#32, dirty := false }
       let s := State.reset.setEnv 31 1 n
       SettingsOk s.settings ∧ inRange s.settings .sysFs s.sys.fs = true ∧ n.InRange s.settings ∧ n.Bounded ∧
         s.env[(31 : Fin nvMax)][(1 : Fin 2)] = n ∧ ∃ t, exec (.envProcess 31 1) s = .next t) := by
  intro st hst
  simp only [List.mem_cons, List.not_mem_nil, or_false] at hst
  rcases hst with rfl | rfl
  all_goals
    refine ⟨referenceSettings_ok, by decide +kernel, ?_, ?_, ?_, _, rfl⟩
    · exact ⟨by decide +kernel, by decide +kernel, by decide +kernel, by decide +kernel⟩
    · exact ⟨by decide +kernel, by decide +kernel, by decide +kernel, by decide +kernel⟩
    · simp [State.setEnv]

/-- The five kinds of edge start from stages like these, and the commands answer a next state. -/
theorem test_witness_StageGraphIsTheListedOne :
    (∃ t, exec (.envNoteOn 0 0) State.reset = .next t) ∧ (∃ t, exec (.envProcess 0 0) State.reset = .next t) ∧
      ∃ t, exec (.sysPrepare 1#16 0#32) State.reset = .next t :=
  ⟨⟨_, rfl⟩, ⟨_, rfl⟩, ⟨_, rfl⟩⟩

theorem test_witness_LfoProcessResult : (1#16) ≠ 0#16 ∧ (65535#16) ≠ 0#16 ∧ (0#16) = 0#16 := by decide

/-- A Sample-and-Hold LFO at the ends of its bounds. -/
def heldLfo : LfoState :=
  { LfoState.reset with
    wave := .sampleHold, phase := F.asF 0x3F7FFFFF#32, inc := F.lit 4 100, shPrev := F.neg F.one
    shNext := F.asF 0x3F7FFFFF#32, dirty := false }

theorem heldLfo_inRange : heldLfo.InRange referenceSettings :=
  ⟨by decide +kernel, by decide +kernel, by decide +kernel, by decide +kernel⟩

theorem heldLfo_bounded : heldLfo.Bounded referenceSettings :=
  ⟨by decide +kernel, by decide +kernel, by decide +kernel, by decide +kernel⟩

theorem test_witness_LfoBlockOfOneIsProcess :
    (State.reset.setLfo 1 heldLfo).settings = referenceSettings ∧ SettingsOk referenceSettings ∧
      inRange referenceSettings .sysFs (State.reset.setLfo 1 heldLfo).sys.fs = true ∧
      (State.reset.setLfo 1 heldLfo).lfo[(1 : Fin nlfo)] = heldLfo ∧ heldLfo.InRange referenceSettings ∧
      heldLfo.Bounded referenceSettings :=
  ⟨rfl, referenceSettings_ok, by decide +kernel, by simp [State.setLfo], heldLfo_inRange, heldLfo_bounded⟩

theorem test_witness_SampleHoldBlockMissesNoWrap : heldLfo.wave = .sampleHold ∧ 0 < 1 ∧ 0 < 65535 := by decide

theorem test_witness_LfoOutputIsBoundedByDepth :
    (State.reset.setLfo 0 heldLfo).settings = referenceSettings ∧ SettingsOk referenceSettings ∧
      (State.reset.setLfo 0 heldLfo).lfo[(0 : Fin nlfo)] = heldLfo ∧ heldLfo.InRange referenceSettings ∧
      heldLfo.Bounded referenceSettings :=
  ⟨rfl, referenceSettings_ok, by simp [State.setLfo], heldLfo_inRange, heldLfo_bounded⟩

theorem test_witness_EffectSettersResult :
    (F.asF 0xFF800000#32).isFinite = false ∧ (F.asF 0x7FC00000#32).isFinite = false ∧
      (F.asF 0x7F7FFFFF#32).isFinite = true := by
  decide +kernel

/-- The last index of the line; no further sample, and as many as the line allows; a time that gives a delay
of one sample and one that gives the longest. -/
theorem test_witness_DelayLineReturnsWhatWasWritten :
    (let x : FxState := { FxState.reset with dlyW := 131071 }
     x.dly.wf referenceSettings.dlyLen = true ∧ x.dlyW < referenceSettings.dlyLen ∧ 0 ≠ x.dlyW) ∧
    ([] : List F).length + 1 < referenceSettings.dlyLen ∧
    (List.replicate 131070 F.one).length + 1 < referenceSettings.dlyLen ∧
    delayLength referenceSettings (F.lit 8000 1) F.zero = ([] : List F).length + 1 ∧
    delayLength referenceSettings (F.lit 192000 1) (F.lit 2 1) = (List.replicate 131070 F.one).length + 1 := by
  refine ⟨by decide +kernel, by decide, ?_, by decide +kernel, ?_⟩
  · rw [List.length_replicate]; decide
  · rw [List.length_replicate]; decide +kernel

theorem test_witness_EffectsAreTransparentAtDefaults :
    State.reset.fx.cur = #v[F.lit 1 1, F.zero, F.lit 1 4, F.zero, F.zero, F.zero] ∧
      State.reset.fx.g = F.lit 1 1 ∧ State.reset.settings.smoothK.isFinite = true ∧
      State.reset.fx.LinesFinite ∧ (F.asF 0xFF7FFFFF#32).isFinite = true :=
  ⟨rfl, rfl, by decide +kernel, ⟨rfl, rfl, rfl⟩, by decide +kernel⟩

/-- At power-on a zero sample leaves the delay's sum in bounds, whatever the open functions are, and
an infinity and a NaN are not finite. -/
theorem test_witness_EffectsCarryFiniteness :
    SettingsOk State.reset.settings ∧ State.reset.fx.InRange State.reset.settings ∧
      inUnit State.reset.fx.g = true ∧ State.reset.fx.LinesFinite ∧ (F.asF 0#32).isFinite = true ∧
      (F.asF 0xFF800000#32).isFinite = false ∧ (F.asF 0x7FC00000#32).isFinite = false ∧
      (∃ s2 : F, (delayOut State.reset.settings State.reset.sys.fs State.reset.fx
          (chorusKernel params State.reset.fx.ch (satFn params (F.asF 0#32) State.reset.fx.cur[1])
            State.reset.fx.cur[4]).2 State.reset.fx.cur[2] State.reset.fx.cur[3]) = s2 ∧
        s2.isFinite = true) := by
  refine ⟨referenceSettings_ok, ?_, by decide +kernel, ⟨rfl, rfl, rfl⟩, rfl, by decide +kernel,
    by decide +kernel, _, rfl, ?_⟩
  · unfold FxState.InRange; decide +kernel
  · have h1 : F.feq (satFn params (F.asF 0#32) State.reset.fx.cur[1]) F.zero = true :=
      satFn_zero params _ _ rfl (by decide +kernel)
    have h2 := (kernelCall_finite params.rawChorus State.reset.fx.ch _ State.reset.fx.cur[4]
      (isFinite_of_feq h1 rfl) rfl (by decide +kernel)).2
    have h3 : F.mul State.reset.fx.cur[3] (State.reset.fx.dly.get (tapIndex
        State.reset.settings.dlyLen State.reset.fx.dlyW
        (delayLength State.reset.settings State.reset.sys.fs State.reset.fx.cur[2]))) = F.zero := by decide +kernel
    unfold delayOut
    rw [h3]
    exact isFinite_add_zero h2

theorem test_witness_EveryCommandCompletes :
    (Instr.arLoadModel 0 0 zeroModel).WellFormed 32 ∧ Instr.sysReset.WellFormed 32 := by decide +kernel

/-- A command that returns a word and one that returns none, each answering a next state. -/
theorem test_witness_OneWordPerReturningCommand :
    (∃ t, exec (.fxGetParam 5) State.reset = .next t) ∧ (Instr.fxGetParam 5).returnsWord = true ∧
      (∃ t, exec (.fxSet 5 0#32) State.reset = .next t) ∧ (Instr.fxSet 5 0#32).returnsWord = false :=
  ⟨⟨_, rfl⟩, rfl, ⟨_, rfl⟩, rfl⟩

/-- A command on a slot, one on an LFO and one on the effects: each leaves something it does not address. -/
theorem test_witness_CommandsWriteOnlyWhatTheyAddress :
    (∃ t, exec (.arSetBase 31 0#32) State.reset = .next t) ∧
      (Instr.arSetBase 31 0#32).op ≠ .sysReset ∧ (Instr.arSetBase 31 0#32).op ≠ .sysPrepare ∧
      voiceOf (.arSetBase 31 0#32) ≠ some 0 ∧ lfoOf (.arSetBase 31 0#32) ≠ some 0 ∧
      voiceOf (.arSetBase 31 0#32) ≠ none ∧ (∃ t, exec (.lfoSeed 1 0#32) State.reset = .next t) ∧
      lfoOf (.lfoSeed 1 0#32) ≠ some 0 ∧ lfoOf (.lfoSeed 1 0#32) ≠ none :=
  ⟨⟨_, rfl⟩, by decide, by decide, by decide, by decide, by decide, ⟨_, rfl⟩, by decide, by decide⟩

/-- Two states that agree on one unit and differ on others: for a slot, for an LFO, and for FX. -/
theorem test_witness_CommandsReadOnlyWhatTheyAddress :
    (let s1 := State.reset
     let s2 := (State.reset.setFb 0 { FbState.reset with z1 := F.one }).setLfo 0 heldLfo
     s1.sys.fs = s2.sys.fs ∧ s1.settings = s2.settings ∧ s1.port = s2.port ∧ s1.nanDraws = s2.nanDraws ∧
       (voiceOf (.fbProcess 31 0#32) = some 31 ∧ s1.ar[(31 : Fin nvMax)] = s2.ar[(31 : Fin nvMax)] ∧
         s1.rfb[(31 : Fin nvMax)] = s2.rfb[(31 : Fin nvMax)] ∧ s1.env[(31 : Fin nvMax)] = s2.env[(31 : Fin nvMax)] ∧
         s1.fb[(31 : Fin nvMax)] = s2.fb[(31 : Fin nvMax)] ∧ (∃ t, exec (.fbProcess 31 0#32) s1 = .next t) ∧
         ∃ t, exec (.fbProcess 31 0#32) s2 = .next t) ∧
       (lfoOf (.lfoProcess 1) = some 1 ∧ s1.lfo[(1 : Fin nlfo)] = s2.lfo[(1 : Fin nlfo)] ∧
         (∃ t, exec (.lfoProcess 1) s1 = .next t) ∧ ∃ t, exec (.lfoProcess 1) s2 = .next t) ∧
       voiceOf (.fxProcess 0#32) = none ∧ lfoOf (.fxProcess 0#32) = none ∧
       (Instr.fxProcess 0#32).op ≠ .sysReset ∧ (Instr.fxProcess 0#32).op ≠ .sysPrepare ∧ s1.fx = s2.fx ∧
       (∃ t, exec (.fxProcess 0#32) s1 = .next t) ∧ ∃ t, exec (.fxProcess 0#32) s2 = .next t) := by
  refine ⟨rfl, rfl, rfl, rfl, ⟨rfl, rfl, rfl, rfl, by decide +kernel, ⟨_, rfl⟩, ⟨_, rfl⟩⟩,
    ⟨rfl, by decide +kernel, ⟨_, rfl⟩, ⟨_, rfl⟩⟩, rfl, rfl, by decide, by decide, rfl, ⟨_, rfl⟩, ⟨_, rfl⟩⟩

/-- FX.LATCH is none of the commands that write a model, a generator, the rate or a pending parameter, and
AR.SEED none that writes a latched one. -/
theorem test_witness_OnlyTheNamedCommandsWrite :
    (∃ t, exec .fxLatch State.reset = .next t) ∧ (∃ t, exec (.arSeed 0 1#32) State.reset = .next t) ∧
      Instr.fxLatch.op ∉ ([.arLoadModel, .rfbLoadModel, .arSeed, .arProcess, .lfoSeed, .lfoProcess,
        .lfoProcessBlock, .sysPrepare, .fxSet] : List Op) ∧
      (Instr.arSeed 0 1#32).op ∉ ([.fxLatch, .fxModAdd] : List Op) :=
  ⟨⟨_, rfl⟩, ⟨_, rfl⟩, by decide, by decide⟩

theorem test_witness_SettersAndResetsAreIdempotent :
    (Instr.arUpdate 0 0#32 0#32).returnsWord = false ∧ (Instr.arUpdate 0 0#32 0#32).op ≠ .fxModAdd ∧
      ∃ t, exec (.arUpdate 0 0#32 0#32) State.reset = .next t :=
  ⟨rfl, by decide, ⟨_, rfl⟩⟩

/-- A state with FX.LATCH presented, a clean LFO tuned to its rate and an LFO at the ends of its bounds: a step
from it answers a next state. -/
def runningState : State :=
  { State.reset with
    lfo := #v[{ LfoState.reset with inc := F.div (F.lit 1 1) (F.lit 48000 1), dirty := false },
      { heldLfo with dirty := true }] }.withFetchWord 32 0x62000000

theorem runningState_steps : ∃ t, step runningState = .next t := by
  have h : runningState.head runningState.served = .command .fxLatch [] := by decide +kernel
  exact ⟨_, step_of_command h⟩

theorem model_reset_inRange (k : Fin nslot) : (ArState.reset.model[k]).InRange referenceSettings := by
  intro j
  simp only [ArState.reset, ArState.powerOn, ModelState.reset, Fin.getElem_fin, Vector.getElem_replicate]
  exact ⟨by decide +kernel, by decide +kernel⟩

theorem runningState_paramsInRange : runningState.ParamsInRange where
  settings := referenceSettings_ok
  fs := by decide +kernel
  ar v := by
    have h : runningState.ar[v] = ArState.reset := by
      simp [runningState, State.withFetchWord, State.reset, State.powerOn, ArState.reset]
    rw [h]
    exact ⟨by decide +kernel, by decide +kernel, by decide +kernel, by decide +kernel, model_reset_inRange⟩
  rfb v := by
    have h : runningState.rfb[v] = RfbState.reset := by
      simp [runningState, State.withFetchWord, State.reset, State.powerOn, RfbState.reset]
    rw [h]
    exact ⟨by decide +kernel, by decide +kernel, by decide +kernel, by decide +kernel, by decide +kernel,
      model_reset_inRange⟩
  env v e := by
    have h : runningState.env[v][e] = EnvState.reset := by
      simp [runningState, State.withFetchWord, State.reset, State.powerOn, EnvState.reset]
    rw [h]
    exact ⟨by decide +kernel, by decide +kernel, by decide +kernel, by decide +kernel⟩
  fb v := by
    have h : runningState.fb[v] = FbState.reset := by
      simp [runningState, State.withFetchWord, State.reset, State.powerOn, FbState.reset]
    rw [h]
    exact ⟨by decide +kernel, by decide +kernel⟩
  lfo := by unfold LfoState.InRange; decide +kernel
  fx := by unfold FxState.InRange; decide +kernel

theorem test_witness_StepKeepsParametersInRange :
    runningState.ParamsInRange ∧ ∃ t, step runningState = .next t :=
  ⟨runningState_paramsInRange, runningState_steps⟩

theorem test_witness_StepKeepsEnvelopesBounded :
    runningState.ParamsInRange ∧ runningState.EnvsBounded ∧ ∃ t, step runningState = .next t := by
  refine ⟨runningState_paramsInRange, fun v e => ?_, runningState_steps⟩
  have h : runningState.env[v][e] = EnvState.reset := by
      simp [runningState, State.withFetchWord, State.reset, State.powerOn, EnvState.reset]
  rw [h]
  exact ⟨by decide +kernel, by decide +kernel, by decide +kernel, by decide +kernel⟩

theorem test_witness_StepKeepsLfosBounded :
    runningState.ParamsInRange ∧ runningState.LfosBounded ∧ ∃ t, step runningState = .next t := by
  refine ⟨runningState_paramsInRange, ?_, runningState_steps⟩
  unfold State.LfosBounded LfoState.Bounded
  decide +kernel

/-- The first place beyond the 32 slots, and the last, are as power-on left them. -/
theorem test_witness_StepKeepsTheStoredForm :
    runningState.LinesCanonical ∧ runningState.AbsentAtPowerOn ∧
      runningState.settings.nv ≤ (32 : Fin nvMax).val ∧ runningState.settings.nv ≤ (255 : Fin nvMax).val ∧
      ∃ t, step runningState = .next t := by
  refine ⟨⟨rfl, by decide, rfl, rfl⟩, fun v _ => ?_, by decide, by decide, runningState_steps⟩
  simp [runningState, State.withFetchWord, State.reset, State.powerOn]

/-- The first LFO is clean and holds the increment of its rate. -/
theorem test_witness_StepKeepsDerivedStateFresh :
    runningState.DerivedFresh ∧ runningState.lfo[(0 : Fin nlfo)].dirty = false ∧
      ∃ t, step runningState = .next t := by
  refine ⟨⟨fun v h => ?_, fun v e h => ?_, fun v h => ?_, ?_⟩, rfl, runningState_steps⟩
  · simp [runningState, State.withFetchWord, State.reset, State.powerOn, RfbState.powerOn] at h
  · simp [runningState, State.withFetchWord, State.reset, State.powerOn, EnvState.powerOn] at h
  · simp [runningState, State.withFetchWord, State.reset, State.powerOn, FbState.powerOn] at h
  · unfold LfoState.Fresh
    decide +kernel

/-- The reference settings, and others at the ends of what is allowed. -/
theorem test_witness_ResetMeetsTheInvariants :
    SettingsOk referenceSettings ∧
      SettingsOk { referenceSettings with
        nv := 256, dlyLen := 2, sysFs := ⟨F.lit 1 1, F.lit (2 ^ 20) 1, F.lit 1 1⟩ } :=
  ⟨referenceSettings_ok,
    { referenceSettings_ok with
      slots := by decide
      line := by decide
      rows := fun c => by cases c <;> decide +kernel
      rate := by decide +kernel
      times := by decide +kernel
      units := by decide +kernel
      freq := by decide +kernel }⟩

end Sys2Proof.Tests
end

section
/-!
PROOF. Rounding is to nearest, ties to even (R18): the two representable magnitudes around a quotient, the choice
between them, and the threshold of overflow; and so the four operations round their exact result once (O13).
Elaboration stays on one thread, as in the tests: many waiting threads would pass the memory limit of the check.
-/

namespace Sys2Proof.F

set_option Elab.async false

/-! ## The two magnitudes around a quotient -/

/-- The truncated mantissa of a quotient: 24 bits, with its top bit set wherever there is a shift. -/
theorem quotient_mantissa (n d : Nat) :
    n / (d * 2 ^ ((n / d).log2 - 23)) < 2 ^ 24 ∧
      ((n / d).log2 - 23 = 0 ∨ 2 ^ 23 ≤ n / (d * 2 ^ ((n / d).log2 - 23))) := by
  rw [← Nat.div_div_eq_div_mul]
  generalize hq : n / d = q
  constructor
  · rw [Nat.div_lt_iff_lt_mul (by positivity), ← pow_add]
    exact Nat.lt_log2_self.trans_le (Nat.pow_le_pow_right (by decide) (by omega))
  · by_cases h0 : q.log2 - 23 = 0
    · exact .inl h0
    · have hq0 : q ≠ 0 := by rintro rfl; simp at h0
      right
      rw [Nat.le_div_iff_mul_le (by positivity), ← pow_add]
      exact (Nat.pow_le_pow_right (by decide) (by omega)).trans (Nat.log2_self_le hq0)

/-- A quotient lies between two neighbouring representable magnitudes and rounds to the nearer one, half way
between them to the one with the even pattern. -/
theorem roundMag_bracket (n d : Nat) (hd : 0 < d) : ∃ lo : Nat,
    magVal lo * d ≤ n ∧ n < magVal (lo + 1) * d ∧
    ((roundMag n d = lo ∧ 2 * n ≤ (magVal lo + magVal (lo + 1)) * d ∧
        (2 * n = (magVal lo + magVal (lo + 1)) * d → lo % 2 = 0)) ∨
      (roundMag n d = lo + 1 ∧ (magVal lo + magVal (lo + 1)) * d ≤ 2 * n ∧
        (2 * n = (magVal lo + magVal (lo + 1)) * d → (lo + 1) % 2 = 0))) := by
  obtain ⟨hlt, hnorm⟩ := quotient_mantissa n d
  unfold roundMag
  generalize (n / d).log2 - 23 = sh at *
  have hD : 0 < d * 2 ^ sh := by positivity
  have hmod := Nat.mod_lt n hD
  have hdiv := Nat.div_add_mod n (d * 2 ^ sh)
  unfold divNearestEven
  generalize n / (d * 2 ^ sh) = q at *
  generalize n % (d * 2 ^ sh) = r at *
  have hlo : magVal (sh * 2 ^ 23 + q) * d = d * 2 ^ sh * q := by
    rw [magVal_mantissa sh q (by omega) hnorm]; ring
  have hhi : magVal (sh * 2 ^ 23 + q + 1) * d = d * 2 ^ sh * q + d * 2 ^ sh := by
    rw [Nat.add_assoc, magVal_mantissa sh (q + 1) (by omega) (by omega)]; ring
  refine ⟨sh * 2 ^ 23 + q, ?_⟩
  rw [Nat.add_mul, hlo, hhi]
  split_ifs with hup <;> omega

/-- No representable magnitude is nearer to a quotient than the one it rounds to, and one as near is either equal
to it or loses to its even pattern (R18). -/
theorem roundMag_nearest (n d : Nat) (hd : 0 < d) (k : Nat) :
    |(magVal (roundMag n d) : ℚ) - n / d| ≤ |(magVal k : ℚ) - n / d| ∧
      (|(magVal (roundMag n d) : ℚ) - n / d| = |(magVal k : ℚ) - n / d| →
        magVal k = magVal (roundMag n d) ∨ roundMag n d % 2 = 0) := by
  obtain ⟨lo, hlo, hhi, hcase⟩ := roundMag_bracket n d hd
  have hdq : (0 : ℚ) < d := by exact_mod_cast hd
  have hx : (n : ℚ) = n / d * d := by field_simp
  generalize (n : ℚ) / d = x at hx ⊢
  have hlo' : (magVal lo : ℚ) ≤ x := by
    refine le_of_mul_le_mul_right ?_ hdq
    rw [← hx]; exact_mod_cast hlo
  have hhi' : x < (magVal (lo + 1) : ℚ) := by
    refine lt_of_mul_lt_mul_right ?_ hdq.le
    rw [← hx]; exact_mod_cast hhi
  have hk : (magVal k : ℚ) ≤ magVal lo ∨ (magVal (lo + 1) : ℚ) ≤ magVal k := by
    rcases Nat.lt_or_ge lo k with h | h
    · exact .inr (by exact_mod_cast (magVal_le_iff _ _).mpr h)
    · exact .inl (by exact_mod_cast (magVal_le_iff _ _).mpr h)
  have htie : 2 * x = magVal lo + magVal (lo + 1) → 2 * n = (magVal lo + magVal (lo + 1)) * d := by
    intro h
    have : (2 * n : ℚ) = (magVal lo + magVal (lo + 1)) * d := by rw [← h, hx]; ring
    exact_mod_cast this
  rw [← Nat.cast_inj (R := ℚ)]
  rcases hcase with ⟨hr, hmid, heven⟩ | ⟨hr, hmid, heven⟩
  · have hmid' : 2 * x ≤ magVal lo + magVal (lo + 1) := by
      refine le_of_mul_le_mul_right ?_ hdq
      rw [mul_assoc, ← hx]; exact_mod_cast hmid
    rw [hr, abs_of_nonpos (by linarith)]
    rcases hk with hk | hk
    · rw [abs_of_nonpos (by linarith)]
      exact ⟨by linarith, fun h => .inl (by linarith)⟩
    · rw [abs_of_nonneg (by linarith)]
      exact ⟨by linarith, fun h => .inr (heven (htie (by linarith)))⟩
  · have hmid' : (magVal lo : ℚ) + magVal (lo + 1) ≤ 2 * x := by
      refine le_of_mul_le_mul_right ?_ hdq
      rw [mul_assoc, ← hx]; exact_mod_cast hmid
    rw [hr, abs_of_nonneg (by linarith)]
    rcases hk with hk | hk
    · rw [abs_of_nonpos (by linarith)]
      exact ⟨by linarith, fun h => .inr (heven (htie (by linarith)))⟩
    · rw [abs_of_nonneg (by linarith)]
      exact ⟨by linarith, fun h => .inl (by linarith)⟩

/-! ## The threshold of overflow (R18, R381) -/

/-- Half a unit above the largest finite magnitude is a tie, and goes up to the pattern of infinity. -/
theorem roundMag_threshold : roundMag ((2 ^ 25 - 1) * 2 ^ 252) 1 = magInf := by decide

/-- A quotient rounds past the finite magnitudes exactly from half a unit above the largest of them on. -/
theorem roundMag_lt_magInf_iff (n d : Nat) (hd : 0 < d) :
    roundMag n d < magInf ↔ n < (2 ^ 25 - 1) * 2 ^ 252 * d := by
  constructor
  · intro h
    by_contra hn
    have := roundMag_mono (a := (2 ^ 25 - 1) * 2 ^ 252) (b := 1) (c := n) (d := d) (by decide) hd (by omega)
    rw [roundMag_threshold] at this
    omega
  · intro hn
    have hle : roundMag n d ≤ magInf := by
      rw [← roundMag_threshold]
      exact roundMag_mono hd (by decide) (by omega)
    refine lt_of_le_of_ne hle fun heq => ?_
    have hmid : magVal (magInf - 1) + magVal magInf = 2 * ((2 ^ 25 - 1) * 2 ^ 252) := by decide
    have htop : (2 ^ 25 - 1) * 2 ^ 252 ≤ magVal magInf := by decide
    generalize (2 ^ 25 - 1) * 2 ^ 252 = half at *
    obtain ⟨lo, hlo, -, ⟨hr, -⟩ | ⟨hr, hup, -⟩⟩ := roundMag_bracket n d hd
    · rw [← hr, heq] at hlo
      exact absurd (Nat.mul_le_mul_right d htop) (by omega)
    · obtain rfl : lo = magInf - 1 := by omega
      rw [← hr, heq, hmid, Nat.mul_assoc] at hup
      omega

end Sys2Proof.F

namespace Sys2Proof.Machine

set_option Elab.async false

open F hiding neg_neg

/-! ## Rounding is to nearest (R18) -/

/-- The two signs round alike. -/
theorem RoundsTo.neg {x : ℚ} {r : F} (h : RoundsTo x r) : RoundsTo (-x) (F.neg r) := by
  cases r with
  | nan => exact h
  | inf s =>
    obtain ⟨hbig, hsign⟩ := h
    have hne : x ≠ 0 := by rintro rfl; norm_num at hbig
    refine ⟨by rwa [abs_neg], ?_⟩
    rw [neg_lt_zero, Bool.not_eq_true', ← Bool.not_eq_true, hsign, not_lt, le_iff_lt_or_eq]
    exact or_iff_left (Ne.symm hne)
  | fin s m =>
    obtain ⟨hsmall, hneg, hpos, hnear⟩ := h
    refine ⟨by rwa [abs_neg], fun hx => ?_, fun hx => ?_, fun y hy => ?_⟩
    · simp [hpos (by linarith)]
    · simp [hneg (by linarith)]
    · have flip : ∀ a : ℚ, |a - -x| = |-a - x| := fun a => by rw [← abs_neg]; congr 1; ring
      have hn := hnear (F.neg y) (by simpa using hy)
      rw [toRat_neg] at hn
      show |toRat (F.neg (.fin s m)) - -x| ≤ _ ∧ (|toRat (F.neg (.fin s m)) - -x| = _ →
        toRat y = toRat (F.neg (.fin s m)) ∨ _)
      rw [flip, flip, toRat_neg, neg_neg]
      exact ⟨hn.1, fun he => (hn.2 he).imp_left fun h => by rw [← h, neg_neg]⟩

/-- The distance of two exact values, in units of `2^-149`. -/
theorem abs_sub_units (a b : ℚ) : |a / 2 ^ 149 - b / 2 ^ 149| = |a - b| / 2 ^ 149 := by
  rw [← sub_div, abs_div, abs_of_pos two149_pos]

/-- A non-negative quotient rounds to nearest. -/
theorem round_roundsTo_nonneg (n d : Nat) (hd : 0 < d) :
    RoundsTo ((n : ℚ) / d / 2 ^ 149) (F.round false n d) := by
  have hdq : (0 : ℚ) < d := by exact_mod_cast hd
  have hx : (0 : ℚ) ≤ (n : ℚ) / d := by positivity
  have hbound : (n : ℚ) / d / 2 ^ 149 < (2 ^ 25 - 1) * 2 ^ 103 ↔ roundMag n d < magInf := by
    rw [roundMag_lt_magInf_iff n d hd, div_lt_iff₀ two149_pos, div_lt_iff₀ hdq, ← Nat.cast_lt (α := ℚ)]
    norm_num
  by_cases h : roundMag n d < magInf
  · rw [round_fin h]
    refine ⟨by rw [abs_of_nonneg (by positivity)]; exact hbound.mpr h,
      fun hneg => absurd hneg (not_lt.mpr (by positivity)), fun _ => rfl, fun y hy => ?_⟩
    obtain ⟨t, k, rfl⟩ := (isFinite_iff y).mp hy
    rw [toRat_pos, abs_sub_units]
    cases t with
    | false =>
      obtain ⟨hle, htie⟩ := roundMag_nearest n d hd k.val
      rw [toRat_pos, abs_sub_units, div_le_div_iff_of_pos_right two149_pos, div_left_inj' two149_pos.ne',
        div_left_inj' two149_pos.ne', Nat.cast_inj]
      exact ⟨hle, htie⟩
    | true =>
      -- a value with its sign set is no nearer than zero
      obtain ⟨hle, htie⟩ := roundMag_nearest n d hd 0
      have hk : (0 : ℚ) ≤ magVal k.val := by positivity
      rw [magVal_zero, Nat.cast_zero, zero_sub, abs_neg, abs_of_nonneg hx] at hle htie
      rw [toRat_negative, ← neg_div, abs_sub_units, div_le_div_iff_of_pos_right two149_pos,
        div_left_inj' two149_pos.ne', abs_of_nonpos (a := -(magVal k.val : ℚ) - n / d) (by linarith)]
      refine ⟨by linarith, fun he => ?_⟩
      have hk0 : (magVal k.val : ℚ) = 0 := by linarith
      rw [hk0, neg_zero]
      exact (htie (by linarith)).imp_left fun h0 => by simp [← h0]
  · rw [F.round, dif_neg h]
    refine ⟨?_, by simpa using div_nonneg hx two149_pos.le⟩
    rw [abs_of_nonneg (by positivity)]
    exact not_lt.mp (mt hbound.mp h)

/-- A quotient of either sign rounds to nearest. -/
theorem round_roundsTo (s : Bool) (n d : Nat) (hd : 0 < d) :
    RoundsTo ((if s then -1 else 1) * (n : ℚ) / d / 2 ^ 149) (F.round s n d) := by
  have h := round_roundsTo_nonneg n d hd
  cases s with
  | false => simpa using h
  | true =>
    rw [round_true]
    convert h.neg using 1
    simp [neg_div]

/-! ## The four operations round once (R18) -/

/-- `r` is the exact result `x` rounded once. -/
def IsRounded (x : ℚ) (r : F) : Prop :=
  ∃ (s : Bool) (n d : Nat), 0 < d ∧ r = F.round s n d ∧ x = (if s then -1 else 1) * (n : ℚ) / d / 2 ^ 149

theorem IsRounded.roundsTo {x : ℚ} {r : F} (h : IsRounded x r) : RoundsTo x r := by
  obtain ⟨s, n, d, hd, rfl, rfl⟩ := h
  exact round_roundsTo s n d hd

/-- `+` (R18). -/
theorem add_isRounded {a b : F} (ha : a.isFinite = true) (hb : b.isFinite = true) :
    IsRounded (toRat a + toRat b) (F.add a b) := by
  obtain ⟨s, m, rfl⟩ := (isFinite_iff a).mp ha
  obtain ⟨t, n, rfl⟩ := (isFinite_iff b).mp hb
  by_cases hst : s = t
  · subst hst
    refine ⟨s, magVal m.val + magVal n.val, 1, one_pos, by simp [F.add], ?_⟩
    simp only [toRat]; push_cast; ring
  · obtain rfl : t = !s := by cases s <;> cases t <;> simp_all
    have hsum : toRat (.fin s m) + toRat (.fin (!s) n) =
        (if s then -1 else 1) * ((magVal m.val : ℚ) - magVal n.val) / 2 ^ 149 := by
      cases s <;> simp [toRat] <;> ring
    rw [hsum]
    rcases lt_trichotomy (magVal m.val) (magVal n.val) with h | h | h
    · refine ⟨!s, magVal n.val - magVal m.val, 1, one_pos, ?_, ?_⟩
      · simp only [F.add, if_neg hst, if_neg h.ne, if_neg h.not_gt]
      · rw [Nat.cast_sub h.le]; cases s <;> simp
    · refine ⟨false, 0, 1, one_pos, ?_, by simp [h]⟩
      simp only [F.add, if_neg hst, if_pos h]
      exact (round_magVal false 0).symm
    · refine ⟨s, magVal m.val - magVal n.val, 1, one_pos, ?_, ?_⟩
      · simp only [F.add, if_neg hst, if_neg h.ne', if_pos h]
      · rw [Nat.cast_sub h.le, Nat.cast_one, div_one]

/-- `-` (R18). -/
theorem sub_isRounded {a b : F} (ha : a.isFinite = true) (hb : b.isFinite = true) :
    IsRounded (toRat a - toRat b) (F.sub a b) := by
  rw [sub_eq_add_neg, ← toRat_neg]
  exact add_isRounded ha (by rwa [isFinite_neg])

/-- The sign of a product or a quotient. -/
theorem signs_mul (s t : Bool) :
    (if (s != t) = true then -1 else 1 : ℚ) = (if s then -1 else 1) * (if t then -1 else 1) := by
  cases s <;> cases t <;> norm_num

/-- `*` (R18). -/
theorem mul_isRounded {a b : F} (ha : a.isFinite = true) (hb : b.isFinite = true) :
    IsRounded (toRat a * toRat b) (F.mul a b) := by
  obtain ⟨s, m, rfl⟩ := (isFinite_iff a).mp ha
  obtain ⟨t, n, rfl⟩ := (isFinite_iff b).mp hb
  refine ⟨s != t, magVal m.val * magVal n.val, 2 ^ 149, by positivity, rfl, ?_⟩
  rw [signs_mul]
  simp only [toRat]
  push_cast
  ring

/-- `/` by a value that is not zero (R18). -/
theorem div_isRounded {a b : F} (ha : a.isFinite = true) (hb : b.isFinite = true) (h0 : toRat b ≠ 0) :
    IsRounded (toRat a / toRat b) (F.div a b) := by
  obtain ⟨s, m, rfl⟩ := (isFinite_iff a).mp ha
  obtain ⟨t, n, rfl⟩ := (isFinite_iff b).mp hb
  have hn : n.val ≠ 0 := fun h => h0 (by simp [toRat, h, magVal_zero])
  have hv : magVal n.val ≠ 0 := fun h => hn (magVal_eq_zero _ h)
  have hvq : (magVal n.val : ℚ) ≠ 0 := by exact_mod_cast hv
  have hunit := two149_pos.ne'
  refine ⟨s != t, magVal m.val * 2 ^ 149, magVal n.val, Nat.pos_of_ne_zero hv, by simp [F.div, hn], ?_⟩
  rw [signs_mul]
  have hcast : ((2 ^ 149 : ℕ) : ℚ) = 2 ^ 149 := by norm_num
  have hsign : (if t then -1 else 1 : ℚ) * (if t then -1 else 1) = 1 := by cases t <;> norm_num
  have hsign0 : (if t then -1 else 1 : ℚ) ≠ 0 := left_ne_zero_of_mul_eq_one hsign
  rw [Nat.cast_mul, hcast]
  simp only [toRat]
  generalize (2 : ℚ) ^ 149 = unit at hunit ⊢
  generalize (if t then -1 else 1 : ℚ) = σ at hsign hsign0 ⊢
  field_simp
  linear_combination (-magVal m.val : ℚ) * hsign

/-- Settles O13: every operation is a rounded quotient, and a rounded quotient is the nearest value because it is
one of the two magnitudes around it. -/
theorem operationsRoundTheExactResult : Obligations.OperationsRoundTheExactResult :=
  ⟨round_roundsTo, fun _ _ ha hb =>
    ⟨(add_isRounded ha hb).roundsTo, (sub_isRounded ha hb).roundsTo, (mul_isRounded ha hb).roundsTo,
      fun h0 => (div_isRounded ha hb h0).roundsTo⟩⟩

end Sys2Proof.Machine
end

section
/-!
PROOF. The values of the exceptional cases (O14), `floor` and `wrap01` (O15).
-/

namespace Sys2Proof.F

set_option Elab.async false

/-! ## Operations and comparisons with a NaN (R18, R381) -/

@[simp] theorem add_nan (x : F) : add x .nan = .nan := by cases x <;> rfl
@[simp] theorem nan_add (x : F) : add .nan x = .nan := rfl
@[simp] theorem sub_nan (x : F) : sub x .nan = .nan := add_nan x
@[simp] theorem nan_sub (x : F) : sub .nan x = .nan := rfl

@[simp] theorem lt_nan (x : F) : lt x .nan = false := by cases x <;> rfl
@[simp] theorem nan_lt (x : F) : lt .nan x = false := rfl
@[simp] theorem le_nan (x : F) : le x .nan = false := by cases x <;> rfl
@[simp] theorem nan_le (x : F) : le .nan x = false := rfl
@[simp] theorem feq_nan (x : F) : feq x .nan = false := by cases x <;> rfl
@[simp] theorem nan_feq (x : F) : feq .nan x = false := rfl
@[simp] theorem gt_nan (x : F) : gt x .nan = false := nan_lt x
@[simp] theorem nan_gt (x : F) : gt .nan x = false := lt_nan x
@[simp] theorem ge_nan (x : F) : ge x .nan = false := nan_le x
@[simp] theorem nan_ge (x : F) : ge .nan x = false := le_nan x
@[simp] theorem fne_nan (x : F) : fne x .nan = true := by simp [fne]
@[simp] theorem nan_fne (x : F) : fne .nan x = true := rfl

/-- The difference of an infinity and itself is invalid. -/
theorem sub_inf_self (s : Bool) : sub (.inf s) (.inf s) = .nan := by cases s <;> rfl

/-- So is the sum of the two infinities. -/
theorem add_inf_opposite (s : Bool) : add (.inf s) (.inf !s) = .nan := by cases s <;> rfl

/-- A non-zero value over zero is an infinity of the signs' product. -/
theorem div_fin_zero (s t : Bool) {m : Fin magInf} (hm : m ≠ 0) :
    div (.fin s m) (.fin t 0) = .inf (s != t) := by
  have hv : m.val ≠ 0 := fun h => hm (Fin.ext h)
  simp [div, hv]

/-! ## Integral magnitudes (R20) -/

/-- A whole number of quanta is representable. -/
theorem magVal_roundMag_of_dvd {n : Nat} (h : 2 ^ (n.log2 - 23) ∣ n) : magVal (roundMag n 1) = n := by
  obtain ⟨q, hq⟩ := h
  rw [magVal_roundMag, Nat.div_one, Nat.one_mul]
  generalize n.log2 - 23 = sh at *
  rw [hq, Nat.mul_comm (2 ^ sh) q, divNearestEven_exact q _ (by positivity)]

/-- An integer up to `2^24` is representable. -/
theorem magVal_roundMag_integer {q : Nat} (hq : q ≤ 2 ^ 24) :
    magVal (roundMag (q * 2 ^ 149) 1) = q * 2 ^ 149 := by
  apply magVal_roundMag_of_dvd
  rcases Nat.eq_or_lt_of_le hq with rfl | hlt
  · decide
  · have hlog : (q * 2 ^ 149).log2 < 173 := by
      by_cases h0 : q * 2 ^ 149 = 0
      · rw [h0]; decide
      · exact (Nat.log2_lt h0).mpr (by omega)
    exact (Nat.pow_dvd_pow 2 (by omega)).mul_left q

/-- A magnitude from `2^24` on is that of an integer. -/
theorem unit_dvd_magVal {m : Nat} (h : 2 ^ 173 ≤ magVal m) : 2 ^ 149 ∣ magVal m := by
  have hm : 151 * 2 ^ 23 ≤ m := by
    rw [← magVal_le_iff, show magVal (151 * 2 ^ 23) = 2 ^ 173 by decide]
    exact h
  rw [magVal, if_neg (by omega)]
  exact (Nat.pow_dvd_pow 2 (by omega)).mul_left _

/-- The integer multiple of the unit that a floor takes, below a magnitude or above it, is rounded without error. -/
theorem round_integral (s : Bool) (m : Fin magInf) {q : Nat} (hlo : magVal m.val / 2 ^ 149 ≤ q)
    (hhi : q * 2 ^ 149 < magVal m.val + 2 ^ 149) :
    ∃ k : Fin magInf, round s (q * 2 ^ 149) 1 = .fin s k ∧ magVal k.val = q * 2 ^ 149 := by
  by_cases hbig : 2 ^ 173 ≤ magVal m.val
  · obtain ⟨c, hc⟩ := unit_dvd_magVal hbig
    have hq : q * 2 ^ 149 = magVal m.val := by omega
    exact ⟨m, by rw [hq, round_magVal], hq.symm⟩
  · have hq : q ≤ 2 ^ 24 := by omega
    have hfin : roundMag (q * 2 ^ 149) 1 < magInf := by
      rw [roundMag_lt_magInf_iff _ _ one_pos]; omega
    exact ⟨⟨_, hfin⟩, round_fin hfin, magVal_roundMag_integer hq⟩

end Sys2Proof.F

namespace Sys2Proof.Machine

set_option Elab.async false

open F hiding neg_neg

/-! ## Exceptional cases (R381) -/

/-- Settles O14: the invalid operations, division by zero, and the comparisons with a NaN. -/
theorem exceptionalCasesGiveValues : Obligations.ExceptionalCasesGiveValues := by
  refine ⟨fun s => ⟨sub_inf_self s, add_inf_opposite s⟩, fun s t => ⟨rfl, rfl, rfl, rfl⟩,
    fun s t m hm => div_fin_zero s t hm, fun x => ?_⟩
  simp

/-! ## floor (R20) -/

/-- The floor of a finite value has its sign, and is the largest integer not above it. -/
theorem floor_fin (s : Bool) (m : Fin magInf) : ∃ k : Fin magInf,
    F.floor (.fin s m) = .fin s k ∧ toRat (.fin s k) = (⌊toRat (.fin s m)⌋ : ℚ) := by
  have hunit : ((2 ^ 149 : ℕ) : ℚ) = 2 ^ 149 := by norm_num
  have hunit0 : ((2 ^ 149 : ℕ) : ℚ) ≠ 0 := by positivity
  cases s with
  | false =>
    obtain ⟨k, hk, hv⟩ := round_integral false m (q := magVal m.val / 2 ^ 149) le_rfl (by omega)
    refine ⟨k, hk, ?_⟩
    rw [toRat_pos, toRat_pos, hv, ← hunit, Rat.floor_natCast_div_natCast, Nat.cast_mul,
      mul_div_cancel_right₀ _ hunit0, ← Int.natCast_ediv, Int.cast_natCast]
  | true =>
    obtain ⟨k, hk, hv⟩ := round_integral true m (q := (magVal m.val + (2 ^ 149 - 1)) / 2 ^ 149)
      (by omega) (by omega)
    refine ⟨k, hk, ?_⟩
    rw [toRat_negative, toRat_negative, hv, ← hunit, Int.floor_neg, Rat.ceil_natCast_div_natCast]
    have hceil : -(-(magVal m.val : ℤ) / (2 ^ 149 : ℕ)) = ((magVal m.val + (2 ^ 149 - 1)) / 2 ^ 149 : ℕ) := by
      omega
    rw [hceil, Nat.cast_mul, mul_div_cancel_right₀ _ hunit0, Int.cast_neg, Int.cast_natCast]

/-! ## wrap01 (R20) -/

/-- A difference of two values of one sign that is not negative has its sign bit clear. -/
theorem signBit_sub_same_sign {s : Bool} {m k : Fin magInf} (h : toRat (.fin s k) ≤ toRat (.fin s m)) :
    (F.sub (.fin s m) (.fin s k)).signBit = false := by
  have hneg : F.sub (.fin s m) (.fin s k) = F.add (.fin s m) (.fin (!s) k) := rfl
  have hs : s ≠ !s := by cases s <;> decide
  simp only [hneg, F.add, if_neg hs]
  split_ifs with heq hlt
  · rfl
  · rw [signBit_round]
    cases s with
    | false => rfl
    | true =>
      rw [toRat_negative, toRat_negative, neg_le_neg_iff, div_le_div_iff_of_pos_right two149_pos,
        Nat.cast_le] at h
      omega
  · rw [signBit_round]
    cases s with
    | true => rfl
    | false =>
      rw [toRat_pos, toRat_pos, div_le_div_iff_of_pos_right two149_pos, Nat.cast_le] at h
      omega

theorem toRat_zero : toRat F.zero = 0 := by simp [F.zero, toRat_pos, magVal_zero]

theorem toRat_one : toRat F.one = 1 := by
  rw [show F.one = .fin false 0x3F800000 by decide, toRat_pos,
    show magVal (0x3F800000 : Fin magInf).val = 2 ^ 149 by decide]
  norm_num

/-- The rounded difference of a finite value and its floor: sign bit clear, and from 0.0 to 1.0 (the exact
difference is below 1, the rounded one may be 1.0). -/
theorem sub_floor_bounds {t : F} (ht : t.isFinite = true) :
    (F.sub t (F.floor t)).signBit = false ∧ F.le F.zero (F.sub t (F.floor t)) = true ∧
      F.le (F.sub t (F.floor t)) F.one = true := by
  obtain ⟨s, m, rfl⟩ := (isFinite_iff t).mp ht
  obtain ⟨k, hk, hv⟩ := floor_fin s m
  have hr := sub_respects (x := .fin s m) (y := .fin s k) rfl rfl
  have hle := Int.floor_le (toRat (.fin s m))
  have hlt := Int.lt_floor_add_one (toRat (.fin s m))
  rw [hk]
  refine ⟨signBit_sub_same_sign (by rw [hv]; exact hle), (hr.2 F.zero rfl).2 ?_,
    (hr.2 F.one (by decide)).1 ?_⟩
  · rw [toRat_zero, hv]; linarith
  · rw [toRat_one, hv]; linarith

/-- What is not `>= 1.0` but comparable is below it. -/
theorem lt_of_not_ge {x y : F} (hx : x ≠ .nan) (hy : y ≠ .nan) (h : ¬ F.ge x y = true) : F.lt x y = true := by
  by_contra hlt
  exact h (le_of_not_lt hx hy (by simpa using hlt))

/-- A phase is finite. -/
theorem inPhase_isFinite {x : F} (h : inPhase x = true) : x.isFinite = true := by
  cases x with
  | nan => simp [inPhase] at h
  | inf s => cases s <;> revert h <;> decide
  | fin s m => rfl

/-- A wrapped finite value is a phase (R20, R38). -/
theorem wrap01_inPhase {t : F} (ht : t.isFinite = true) : inPhase (F.wrap01 t) = true := by
  obtain ⟨hsign, hzero, hone⟩ := sub_floor_bounds ht
  unfold F.wrap01
  split_ifs with hge
  · decide
  · have hlt := lt_of_not_ge (ne_nan_of_le hone).1 (ne_nan_of_le hone).2 hge
    simp [inPhase, hsign, hzero, hlt]

/-- Settles O15: the floor is representable, so nothing is rounded; the difference from it is, up to 1.0, which
`wrap01` replaces by 0.0. -/
theorem floorAndWrapAreAsDefined : Obligations.FloorAndWrapAreAsDefined := by
  refine ⟨fun x hx => ?_, rfl, fun s => rfl, fun t => rfl,
    fun t ht => ⟨inPhase_isFinite (wrap01_inPhase ht), wrap01_inPhase ht⟩, fun t ht => ?_⟩
  · obtain ⟨s, m, rfl⟩ := (isFinite_iff x).mp hx
    obtain ⟨k, hk, hv⟩ := floor_fin s m
    rw [hk]
    exact ⟨rfl, hv⟩
  · cases t with
    | nan => rfl
    | inf s => simp [F.wrap01, F.floor, sub_inf_self]
    | fin s m => simp at ht

end Sys2Proof.Machine
end

section
/-!
PROOF. Validated operands are in range (O16), and the contracts on the open functions change none that meets its
contract (O18).
-/

namespace Sys2Proof.Machine

set_option Elab.async false

open Config
open F hiding neg_neg

/-! ## clampv, clause by clause (R22) -/

theorem clampv_of_not_finite {x : F} (r : Range) (h : x.isFinite = false) : clampv x r = r.dflt := by
  simp [clampv, h]

theorem clampv_of_lt {x : F} {r : Range} (hx : x.isFinite = true) (h : F.lt x r.lo = true) :
    clampv x r = r.lo := by
  simp [clampv, hx, h]

/-- `<` is the opposite of `>=`. -/
theorem not_lt_of_le {x y : F} (h : F.le x y = true) : F.lt y x = false := by
  unfold F.le at h
  unfold F.lt
  cases hx : F.key x <;> cases hy : F.key y <;> simp_all

theorem clampv_of_gt {x : F} {r : Range} (hx : x.isFinite = true) (hr : F.le r.lo r.hi = true)
    (h : F.gt x r.hi = true) : clampv x r = r.hi := by
  have hlo : F.lt x r.lo = false := not_lt_of_le (le_trans' hr (le_of_lt h))
  simp [clampv, hx, hlo, h]

theorem clampv_of_inRow {x : F} {r : Range} (h : inRow r x = true) : clampv x r = x := by
  simp only [inRow, Bool.and_eq_true] at h
  obtain ⟨⟨hx, hlo⟩, hhi⟩ := h
  simp [clampv, hx, not_lt_of_le hlo, F.gt, not_lt_of_le hhi]

/-! ## The row of the oscillator frequency operand (R36, R135) -/

/-- What lies between two finite values is finite. -/
theorem isFinite_of_between {x lo hi : F} (hlo : lo.isFinite = true) (hhi : hi.isFinite = true)
    (h1 : F.le lo x = true) (h2 : F.le x hi = true) : x.isFinite = true := by
  cases x with
  | nan => simp at h1
  | fin s m => rfl
  | inf s =>
    cases s with
    | false =>
      obtain ⟨t, m, rfl⟩ := (isFinite_iff hi).mp hhi
      exact isFinite_of_feq (feq_of_le h2 (le_inf t m)) rfl
    | true =>
      obtain ⟨t, m, rfl⟩ := (isFinite_iff lo).mp hlo
      have hbelow : F.le (.inf true) (.fin t m) = true := by
        rw [← le_neg_neg]
        exact le_inf (!t) m
      exact isFinite_of_feq (feq_of_le hbelow h1) rfl

/-- A factor of a finite product is finite. -/
theorem isFinite_of_mul {a b : F} (h : (F.mul a b).isFinite = true) : a.isFinite = true := by
  cases a with
  | nan => exact h
  | fin s m => rfl
  | inf s =>
    cases b with
    | nan => exact h
    | inf t => exact h
    | fin t n =>
      simp only [F.mul] at h
      split_ifs at h <;> exact h

/-- Rounding keeps the order of two quotients. -/
theorem round_mono {a b c d : Nat} (hb : 0 < b) (hd : 0 < d) (h : a * d ≤ c * b) :
    F.le (F.round false a b) (F.round false c d) = true := by
  have hmag := roundMag_mono hb hd h
  by_cases hc : roundMag c d < magInf
  · rw [round_fin hc, round_fin (lt_of_le_of_lt hmag hc), le_fin_false]
    exact hmag
  · rw [F.round.eq_def false c d, dif_neg hc]
    by_cases ha : roundMag a b < magInf
    · rw [round_fin ha]
      exact le_inf false _
    · rw [F.round, dif_neg ha]
      rfl

/-- A rounded product grows with its second factor, where the first is not negative. -/
theorem mul_mono_right {c : F} {m n : Fin magInf} (hc : c.isFinite = true) (h0 : F.le F.zero c = true)
    (hmn : m ≤ n) : F.le (F.mul c (.fin false m)) (F.mul c (.fin false n)) = true := by
  obtain ⟨s, k, rfl⟩ := (isFinite_iff c).mp hc
  have hval : magVal m.val ≤ magVal n.val := (magVal_le_iff _ _).mpr hmn
  cases s with
  | false =>
    refine round_mono (by positivity) (by positivity) ?_
    exact Nat.mul_le_mul_right _ (Nat.mul_le_mul_left _ hval)
  | true =>
    have hk : k.val = 0 := by
      simp only [F.zero, F.le, F.key, Bool.false_eq_true, if_true, if_false, decide_eq_true_eq] at h0
      simpa using h0
    simp only [F.mul, hk, magVal_zero, Nat.zero_mul]
    exact le_refl_of _ (round_ne_nan _ _ _)

/-- A finite value from 1.0 on has its sign bit clear. -/
theorem fin_false_of_one_le {x : F} (hx : x.isFinite = true) (h : F.le F.one x = true) :
    ∃ m : Fin magInf, x = .fin false m := by
  obtain ⟨s, m, rfl⟩ := (isFinite_iff x).mp hx
  cases s with
  | false => exact ⟨m, rfl⟩
  | true =>
    rw [le_iff_toRat rfl rfl, toRat_one, toRat_negative] at h
    have : (0 : ℚ) ≤ (magVal m.val : ℚ) / 2 ^ 149 := by positivity
    linarith

/-- A factor that is not negative keeps the order of two sample rates. -/
theorem mul_rate_mono {c x y : F} (hc : c.isFinite = true) (h0 : F.le F.zero c = true)
    (hx : x.isFinite = true) (hy : y.isFinite = true) (h1 : F.le F.one x = true) (h : F.le x y = true) :
    F.le (F.mul c x) (F.mul c y) = true := by
  obtain ⟨m, rfl⟩ := fin_false_of_one_le hx h1
  obtain ⟨n, rfl⟩ := fin_false_of_one_le hy (le_trans' h1 h)
  exact mul_mono_right hc h0 ((le_fin_false m n).mp h)

/-- At proper settings and a sample rate in range, the oscillator frequency operand's row is proper. -/
theorem poFreqRange_proper {T : Settings} (hT : SettingsOk T) {fs : F} (hfs : inRange T .sysFs fs = true) :
    rowProper (T.poFreqRange fs) = true := by
  obtain ⟨hlo, h0, hdflt, hroom, hfin⟩ := hT.freq
  have hrow := hT.rows .sysFs
  have hrate := hT.rate
  simp only [rowProper, inRange, inRow, rowWithin, Settings.range, Bool.and_eq_true] at hrow hfs hrate
  obtain ⟨⟨⟨hslo, hshi⟩, -⟩, -⟩ := hrow
  obtain ⟨⟨hf, hfl⟩, hfh⟩ := hfs
  obtain ⟨hone, -⟩ := hrate
  have hc := isFinite_of_mul hfin
  have hdh : F.le T.poFreq.dflt (F.mul T.poFreq.hi fs) = true :=
    le_trans' hroom (mul_rate_mono hc h0 hslo hf hone hfl)
  have hlh := le_trans' hdflt hdh
  have hup : F.le (F.mul T.poFreq.hi fs) (F.mul T.poFreq.hi T.sysFs.hi) = true :=
    mul_rate_mono hc h0 hf hshi (le_trans' hone hfl) hfh
  have hhi := isFinite_of_between hlo hfin hlh hup
  simp [rowProper, inRow, Settings.poFreqRange, hlo, hhi, hlh, hdflt, hdh,
    isFinite_of_between hlo hhi hdflt hdh]

/-- What is validated with a proper row is in it. -/
theorem clampv_inRow_of_proper (x : F) {r : Range} (h : rowProper r = true) : inRow r (clampv x r) = true := by
  simp only [rowProper, Bool.and_eq_true] at h
  obtain ⟨⟨⟨hlo, hhi⟩, hord⟩, hdflt⟩ := h
  exact clampv_inRow x r hlo hhi hord hdflt

/-- The bounds of a proper row are in order. -/
theorem rowProper_ordered {r : Range} (h : rowProper r = true) : F.le r.lo r.hi = true := by
  simp only [rowProper, Bool.and_eq_true] at h
  exact h.1.2

/-- Settles O16: `clampv` clause by clause, on rows that the settings make proper. -/
theorem validatedOperandsAreInRange : Obligations.ValidatedOperandsAreInRange := by
  refine fun T hT => ⟨fun c w => ⟨control_inRange hT c w, clampv_of_not_finite _, clampv_of_inRow,
    clampv_of_lt, fun hx => clampv_of_gt hx (rowProper_ordered (hT.rows c))⟩, fun fs w hfs => ?_⟩
  exact clampv_inRow_of_proper (F.asF w) (poFreqRange_proper hT hfs)

/-! ## Functions that meet their contract are kept: NUM and RNG (R21, R153) -/

/-- The only value `isNan` holds of. -/
theorem isNan_iff (x : F) : x.isNan = true ↔ x = .nan := by cases x <;> simp [F.isNan]

theorem boundUnit_of_unit {r : F} (h : F.le (F.neg F.one) r = true ∧ F.le r F.one = true) :
    boundUnit r = r := by simp [boundUnit, h]

theorem fexp_eq_raw {P : Params} (hnan : P.rawExp .nan = .nan)
    (hneg : ∀ x : F, x.isFinite = true → F.lt x F.zero = true → inMultiplier (P.rawExp x) = true) :
    fexp P = P.rawExp := by
  funext x
  unfold fexp
  split_ifs with hx hlt hr
  · rw [(isNan_iff x).mp hx, hnan]
  · rfl
  · rw [Bool.and_eq_true] at hlt
    exact absurd (hneg x hlt.1 hlt.2) hr
  · rfl

theorem fsin_eq_raw {P : Params} (hnan : P.rawSin .nan = .nan) (hzero : P.rawSin F.zero = F.zero)
    (hunit : ∀ x : F, x.isFinite = true →
      F.le (F.neg F.one) (P.rawSin x) = true ∧ F.le (P.rawSin x) F.one = true) : fsin P = P.rawSin := by
  funext x
  unfold fsin
  split_ifs with hx h0 hfin
  · rw [(isNan_iff x).mp hx, hnan]
  · rw [h0, hzero]
  · exact boundUnit_of_unit (hunit x hfin)
  · rfl

theorem fcos_eq_raw {P : Params} (hnan : P.rawCos .nan = .nan)
    (hunit : ∀ x : F, x.isFinite = true →
      F.le (F.neg F.one) (P.rawCos x) = true ∧ F.le (P.rawCos x) F.one = true) : fcos P = P.rawCos := by
  funext x
  unfold fcos
  split_ifs with hx hfin
  · rw [(isNan_iff x).mp hx, hnan]
  · exact boundUnit_of_unit (hunit x hfin)
  · rfl

theorem fpow_eq_raw {P : Params} (hnan : ∀ x y : F, x = .nan ∨ y = .nan → P.rawPow x y = .nan)
    (hright : ∀ x : F, P.rawPow x F.one = x)
    (hleft : ∀ y : F, y.isFinite = true → P.rawPow F.one y = F.one) : fpow P = P.rawPow := by
  funext x y
  unfold fpow
  split_ifs with hn h1 hx
  · rw [Bool.or_eq_true, isNan_iff, isNan_iff] at hn
    exact (hnan x y hn).symm
  · rw [h1, hright]
  · rw [Bool.and_eq_true, decide_eq_true_eq] at hx
    rw [hx.1, hleft y hx.2]
  · rfl

theorem rngBipolar_eq_raw {P : Params} (h : ∀ w : Word, inDraw (P.rawBipolar w) = true) :
    rngBipolar P = P.rawBipolar := by
  funext w
  exact if_pos (h w)

/-! ## The effects (R306, R307, R309) -/

/-- An output that meets its contract is kept. -/
theorem effectOut_of_meets {x amount out : F} (hfin : out.isFinite = true)
    (hzero : F.feq amount F.zero = true → F.feq out x = true) : effectOut x amount out = out := by
  unfold effectOut
  split_ifs with h0 h
  · rfl
  · exact absurd (hzero h0) h
  · rfl

/-- So is an output that is not finite, where the input is not. -/
theorem carried_of_not_finite {x out : F} (h : out.isFinite = false) : carried x out = out := by
  simp [carried, h]

/-- Equal in value to its own negative and not finite: a NaN. -/
theorem eq_nan_of_sameValue_neg {r : F} (hr : r.isFinite = false) (h : sameValue r (F.neg r) = true) :
    r = .nan := by
  cases r with
  | nan => rfl
  | inf s => cases s <;> simp [sameValue, F.neg, F.feq, F.key, F.isNan] at h
  | fin s m => simp at hr

theorem satHalf_eq_raw {P : Params} {a : F}
    (hfin : ∀ x : F, (P.rawSat x a).isFinite = x.isFinite)
    (hzero : ∀ x : F, x.isFinite = true → F.feq a F.zero = true → F.feq (P.rawSat x a) x = true)
    (hodd : ∀ x : F, sameValue (P.rawSat (F.neg x) a) (F.neg (P.rawSat x a)) = true) (x : F) :
    satHalf P x a = P.rawSat x a := by
  unfold satHalf
  split_ifs with hx hnan
  · exact effectOut_of_meets (by rw [hfin, hx]) (hzero x hx)
  · rw [(isNan_iff x).mp hnan]
    exact (eq_nan_of_sameValue_neg (hfin .nan) (hodd .nan)).symm
  · exact carried_of_not_finite (by rw [hfin]; simpa using hx)

theorem satFn_eq_raw {P : Params}
    (hfin : ∀ x a : F, inUnit a = true → (P.rawSat x a).isFinite = x.isFinite)
    (hzero : ∀ x a : F, x.isFinite = true → F.feq a F.zero = true → F.feq (P.rawSat x a) x = true)
    (hodd : ∀ x a : F, inUnit a = true → sameValue (P.rawSat (F.neg x) a) (F.neg (P.rawSat x a)) = true) :
    satFn P = P.rawSat := by
  funext x a
  cases ha : inUnit a with
  | false => simp [satFn, ha]
  | true =>
    have half := satHalf_eq_raw (fun y => hfin y a ha) (fun y hy => hzero y a hy) (fun y => hodd y a ha)
    unfold satFn
    simp only [ha, half, Bool.not_true, Bool.false_eq_true, if_false]
    split_ifs with hs hsame
    · rfl
    · have := hodd (F.neg x) a ha
      rw [F.neg_neg] at this
      exact absurd this hsame
    · rfl

/-- The contract of a kernel on finite input, line and output (R307, R309; D41). -/
def KernelKeepsFinite (raw : KernelState → F → F → KernelStep) : Prop :=
  ∀ (k : KernelState) (x mix : F), x.isFinite = true → lineFinite k.line = true → inUnit mix = true →
    (raw k x mix).out.isFinite = true ∧
    lineFinite (applyWrites k.line (raw k x mix).writes) = true ∧
    (F.feq mix F.zero = true → F.feq (raw k x mix).out x = true)

/-- What R384 asks of a kernel for a sample that is not finite (assumption 29). -/
def KernelCarriesNonFinite (raw : KernelState → F → F → KernelStep) : Prop :=
  ∀ (k : KernelState) (x mix : F), x.isFinite = false → inUnit mix = true →
    (raw k x mix).out.isFinite = false ∧
    lineFinite (applyWrites k.line (raw k x mix).writes) = false

section kernel
variable {raw : KernelState → F → F → KernelStep}

theorem kernelState_eq_raw (hfin : KernelKeepsFinite raw) (hcarry : KernelCarriesNonFinite raw)
    (k : KernelState) (x mix : F) :
    kernelState k x mix (raw k x mix) =
      ⟨applyWrites k.line (raw k x mix).writes, (raw k x mix).index, (raw k x mix).own⟩ := by
  unfold kernelState kernelLine
  congr 1
  split_ifs with hm hx hbad hnew
  · rw [Bool.and_eq_true, Bool.not_eq_true'] at hbad
    have := (hfin k x mix hx hbad.1 hm).2.1
    simp [hbad.2] at this
  · rfl
  · have := (hcarry k x mix (by simpa using hx) hm).2
    simp [hnew] at this
  · rfl
  · rfl

theorem kernelOut_eq_raw (hfin : KernelKeepsFinite raw) (hcarry : KernelCarriesNonFinite raw)
    (k : KernelState) (x mix : F) : kernelOut k x mix (raw k x mix).out = (raw k x mix).out := by
  unfold kernelOut
  split_ifs with hm hx hl
  · rfl
  · exact carried_of_not_finite (hcarry k x mix (by simpa using hx) (by simpa using hm)).1
  · obtain ⟨hout, -, hzero⟩ := hfin k x mix (by simpa using hx) hl (by simpa using hm)
    exact effectOut_of_meets hout hzero
  · rfl

/-- A kernel that meets its contract is used unchanged. -/
theorem kernelCall_eq_raw (hfin : KernelKeepsFinite raw) (hcarry : KernelCarriesNonFinite raw)
    (k : KernelState) (x mix : F) :
    kernelCall raw k x mix =
      (⟨applyWrites k.line (raw k x mix).writes, (raw k x mix).index, (raw k x mix).own⟩,
        (raw k x mix).out) := by
  rw [kernelCall, kernelState_eq_raw hfin hcarry, kernelOut_eq_raw hfin hcarry]

end kernel

/-- Settles O18: each corrected function is the raw one where the correction's own test finds the contract met. -/
theorem contractsKeepEveryAllowedFunction : Obligations.ContractsKeepEveryAllowedFunction := by
  refine fun P => ⟨fexp_eq_raw, fsin_eq_raw, fcos_eq_raw, fpow_eq_raw, rngBipolar_eq_raw, satFn_eq_raw,
    fun raw hfin hcarry k x mix => ⟨?_, ?_⟩⟩
  · rintro rfl
    exact kernelCall_eq_raw hfin hcarry k x mix
  · rintro rfl
    exact kernelCall_eq_raw hfin hcarry k x mix

end Sys2Proof.Machine
end

section
/-!
SUPPORT. What a command does, seen from the one unit it is addressed to (R55): a command other than SYS.RESET and
SYS.PREPARE replaces the content of one unit by a function of that content, the settings and the sample rate, and
may return one word. The invariants of the state and the isolation of commands are derived from this one fact.
-/

namespace Sys2Proof.Machine

open Sys2Proof Config

set_option Elab.async false

/-! ## Units -/

/-- The units of the machine (R37 to R52), the SYS registers apart. -/
inductive UnitRef where
  | ar (v : Voice)
  | rfb (v : Voice)
  | env (v : Voice) (e : EnvSel)
  | fb (v : Voice)
  | lfo (j : LfoSel)
  | fx

/-- The registers of a unit. -/
abbrev UnitRef.Content : UnitRef → Type
  | .ar _ => ArState
  | .rfb _ => RfbState
  | .env _ _ => EnvState
  | .fb _ => FbState
  | .lfo _ => LfoState
  | .fx => FxState

/-- The voice slot a unit belongs to, if it belongs to one (R12). -/
def UnitRef.slot : UnitRef → Option Voice
  | .ar v | .rfb v | .env v _ | .fb v => some v
  | .lfo _ | .fx => none

/-- The LFO number of a unit, if it is an LFO. -/
def UnitRef.lfoNumber : UnitRef → Option LfoSel
  | .lfo j => some j
  | .ar _ | .rfb _ | .env _ _ | .fb _ | .fx => none

/-- What a unit holds. -/
def State.unit (s : State) : (u : UnitRef) → u.Content
  | .ar v => s.ar[v]
  | .rfb v => s.rfb[v]
  | .env v e => s.env[v][e]
  | .fb v => s.fb[v]
  | .lfo j => s.lfo[j]
  | .fx => s.fx

/-- Replace what a unit holds. -/
def State.setUnit (s : State) : (u : UnitRef) → u.Content → State
  | .ar v, a => s.setAr v a
  | .rfb v, b => s.setRfb v b
  | .env v e, n => s.setEnv v e n
  | .fb v, b => s.setFb v b
  | .lfo j, l => s.setLfo j l
  | .fx, x => s.setFx x

@[simp] theorem State.setUnit_sys (s : State) (u : UnitRef) (c : u.Content) : (s.setUnit u c).sys = s.sys := by
  cases u <;> rfl
@[simp] theorem State.setUnit_settings (s : State) (u : UnitRef) (c : u.Content) :
    (s.setUnit u c).settings = s.settings := by cases u <;> rfl
@[simp] theorem State.setUnit_port (s : State) (u : UnitRef) (c : u.Content) : (s.setUnit u c).port = s.port := by
  cases u <;> rfl
@[simp] theorem State.setUnit_nanDraws (s : State) (u : UnitRef) (c : u.Content) :
    (s.setUnit u c).nanDraws = s.nanDraws := by cases u <;> rfl
@[simp] theorem State.setUnit_results (s : State) (u : UnitRef) (c : u.Content) (p : Port) :
    (s.setUnit u c).results p = s.results p := by cases u <;> rfl

/-- A unit reads back as written. -/
@[simp] theorem State.unit_setUnit_same (s : State) (u : UnitRef) (c : u.Content) : (s.setUnit u c).unit u = c := by
  cases u with
  | ar v => exact (s.setAr_get v v c).trans (if_pos rfl)
  | rfb v => exact (s.setRfb_get v v c).trans (if_pos rfl)
  | env v e => exact (s.setEnv_get v v e e c).trans (if_pos ⟨rfl, rfl⟩)
  | fb v => exact (s.setFb_get v v c).trans (if_pos rfl)
  | lfo j => exact (s.setLfo_get j j c).trans (if_pos rfl)
  | fx => rfl

/-- Writing one unit changes no other. -/
theorem State.unit_setUnit_other (s : State) {u w : UnitRef} (c : u.Content) (h : u ≠ w) :
    (s.setUnit u c).unit w = s.unit w := by
  cases u with
  | ar v =>
    cases w with
    | ar v' => exact (s.setAr_get v v' c).trans (if_neg fun e => h (congrArg UnitRef.ar e))
    | _ => rfl
  | rfb v =>
    cases w with
    | rfb v' => exact (s.setRfb_get v v' c).trans (if_neg fun e => h (congrArg UnitRef.rfb e))
    | _ => rfl
  | env v e =>
    cases w with
    | env v' e' =>
      exact (s.setEnv_get v v' e e' c).trans (if_neg fun eq => h (congrArg₂ UnitRef.env eq.1 eq.2))
    | _ => rfl
  | fb v =>
    cases w with
    | fb v' => exact (s.setFb_get v v' c).trans (if_neg fun e => h (congrArg UnitRef.fb e))
    | _ => rfl
  | lfo j =>
    cases w with
    | lfo j' => exact (s.setLfo_get j j' c).trans (if_neg fun e => h (congrArg UnitRef.lfo e))
    | _ => rfl
  | fx =>
    cases w with
    | fx => exact absurd rfl h
    | _ => rfl

/-- Writing back what a unit holds changes nothing. -/
@[simp] theorem State.setUnit_unit (s : State) (u : UnitRef) : s.setUnit u (s.unit u) = s := by
  cases u <;> simp [State.setUnit, State.unit, State.setAr, State.setRfb, State.setEnv, State.setFb, State.setLfo,
    State.setFx]

/-- Two states that hold the same in both envelopes of a slot hold the same pair. -/
theorem env_eq_of_units {s t : State} {v : Voice} (h : ∀ e, t.unit (.env v e) = s.unit (.env v e)) :
    t.env[v] = s.env[v] :=
  Vector.ext fun k hk => h ⟨k, hk⟩

/-! ## Returned words (R88) -/

/-- What a command returns: nothing, a word, or a value. -/
inductive Answer where
  | nothing
  | word (w : Word)
  | real (x : F)

/-- Return it. -/
def State.answer (s : State) : Answer → State
  | .nothing => s
  | .word w => s.pushWord w
  | .real x => s.pushReal params x

/-- The words returned, with `n` NaN patterns drawn before. -/
def Answer.words (n : Nat) : Answer → List Word
  | .nothing => []
  | .word w => [w]
  | .real x => [F.bitsOr (nanPattern params n) x]

@[simp] theorem State.answer_sys (s : State) (r : Answer) : (s.answer r).sys = s.sys := by
  cases r <;> simp [State.answer]
@[simp] theorem State.answer_settings (s : State) (r : Answer) : (s.answer r).settings = s.settings := by
  cases r <;> simp [State.answer]

@[simp] theorem State.unit_pushWord (s : State) (w : Word) (u : UnitRef) : (s.pushWord w).unit u = s.unit u := by
  cases u <;> simp [State.unit]
@[simp] theorem State.unit_pushReal (P : Params) (s : State) (x : F) (u : UnitRef) :
    (s.pushReal P x).unit u = s.unit u := by
  cases u <;> simp [State.unit]

/-- Returning changes no unit. -/
@[simp] theorem State.unit_answer (s : State) (r : Answer) (u : UnitRef) : (s.answer r).unit u = s.unit u := by
  cases r <;> simp [State.answer]

/-- The issuing port's queue grows by the words returned (R88). -/
theorem State.answer_results (s : State) (r : Answer) :
    (s.answer r).results s.port = s.results s.port ++ r.words s.nanDraws := by
  cases r with
  | nothing => exact (List.append_nil _).symm
  | word w => exact (pushWord_results s w s.port).trans (if_pos rfl)
  | real x => exact (pushReal_results params s x s.port).trans (if_pos rfl)

/-! ## The unit a command is addressed to, and what it does there -/

/-- The unit a command is addressed to (R105); SYS.RESET and SYS.PREPARE are addressed to all. -/
def unitOf : Instr → Option UnitRef
  | .sysReset | .sysPrepare .. => none
  | .arReset v | .arLoadModel v _ _ | .arSetBase v _ | .arSetStretch v _ | .arSetEntropy v _ | .arSetDetune v _
  | .arSeed v _ | .arUpdate v _ _ | .arProcess v | .arGetAmp v _ | .poSetFreq v _ _ | .poReset v _
  | .poStep v _ _ => some (.ar v)
  | .rfbReset v | .rfbLoadModel v _ _ | .rfbSetBase v _ | .rfbUpdate v _ _ _ _ | .rfbProcess v _
  | .rfbGetAmp v _ => some (.rfb v)
  | .envReset v e | .envSetAttack v e _ | .envSetDecay v e _ | .envSetSustain v e _ | .envSetRelease v e _
  | .envNoteOn v e | .envNoteOff v e | .envProcess v e | .envGetLevel v e | .envGetState v e => some (.env v e)
  | .fbReset v | .fbSetCutoff v _ | .fbSetRes v _ | .fbSetMode v _ | .fbProcess v _ => some (.fb v)
  | .lfoReset j | .lfoSetRate j _ | .lfoSetDepth j _ | .lfoSetWave j _ | .lfoSetSync j _ | .lfoSetBpm j _
  | .lfoSetDiv j _ | .lfoSeed j _ | .lfoProcess j | .lfoGetValue j | .lfoProcessBlock j _ => some (.lfo j)
  | .fxReset | .fxSet .. | .fxLatch | .fxModAdd .. | .fxProcess .. | .fxGetParam .. => some .fx

/-- The slot a command is addressed to is that of its unit. -/
theorem voiceOf_eq_slot (i : Instr) : voiceOf i = (unitOf i).bind UnitRef.slot := by cases i <;> rfl

/-- The LFO a command is addressed to is its unit. -/
theorem lfoOf_eq_lfoNumber (i : Instr) : lfoOf i = (unitOf i).bind UnitRef.lfoNumber := by cases i <;> rfl

/-- The slot of a command's unit. -/
theorem slot_of_unitOf {i : Instr} {u : UnitRef} (hu : unitOf i = some u) : u.slot = voiceOf i := by
  rw [voiceOf_eq_slot, hu]
  rfl

/-- The LFO number of a command's unit. -/
theorem lfoNumber_of_unitOf {i : Instr} {u : UnitRef} (hu : unitOf i = some u) : u.lfoNumber = lfoOf i := by
  rw [lfoOf_eq_lfoNumber, hu]
  rfl

/-- A command addressed to a slot is addressed to a unit of it. -/
theorem unitOf_of_voice {i : Instr} {v : Voice} (hv : voiceOf i = some v) :
    ∃ u, unitOf i = some u ∧ u.slot = some v := by
  rw [voiceOf_eq_slot] at hv
  exact Option.bind_eq_some_iff.mp hv

/-- A command addressed to an LFO. -/
theorem unitOf_of_lfo {i : Instr} {j : LfoSel} (hj : lfoOf i = some j) : unitOf i = some (.lfo j) := by
  rw [lfoOf_eq_lfoNumber] at hj
  obtain ⟨u, hu, hnum⟩ := Option.bind_eq_some_iff.mp hj
  cases u with
  | lfo k => cases hnum; exact hu
  | _ => cases hnum

/-- A command addressed to neither a slot nor an LFO is one of SYS or is addressed to FX (R105). -/
theorem unitOf_of_fx {i : Instr} (hv : voiceOf i = none) (hj : lfoOf i = none) (hr : i.op ≠ .sysReset)
    (hp : i.op ≠ .sysPrepare) : unitOf i = some .fx := by
  cases hu : unitOf i with
  | none =>
    cases i with
    | sysReset => exact absurd rfl hr
    | sysPrepare _ _ => exact absurd rfl hp
    | _ => cases hu
  | some u =>
    rw [← slot_of_unitOf hu] at hv
    rw [← lfoNumber_of_unitOf hu] at hj
    cases u with
    | fx => rfl
    | lfo _ => cases hj
    | _ => cases hv

/-- AR and PO commands on their resonator (R135 to R137, R160 to R169). Any other command leaves it alone, as with
the units below. -/
def arEffect (T : Settings) (fs : F) (i : Instr) (a : ArState) : ArState × Answer :=
  match i with
  | .arReset _ => (a.clearPhases, .nothing)
  | .arLoadModel _ k ops => (ArState.markDirty { a with model := a.model.set k (loadedModel T ops) }, .nothing)
  | .arSetBase _ f => (ArState.markDirty { a with base := control T .arBase f }, .nothing)
  | .arSetStretch _ x => (ArState.markDirty { a with stretch := control T .arStretch x }, .nothing)
  | .arSetEntropy _ x => ({ a with entropy := control T .arEntropy x }, .nothing)
  | .arSetDetune _ x => (ArState.markDirty { a with detune := control T .arDetune x }, .nothing)
  | .arSeed _ seed => ({ a with rng := seed }, .nothing)
  | .arUpdate _ mx my => (arUpdate params fs a (control T .morph mx) (control T .morph my), .nothing)
  | .arProcess _ => (arStep params a, .real (arRender params a).2)
  | .arGetAmp _ k => (a, .real (F.mul a.amp[k] a.norm))
  | .poSetFreq _ k f => (a.setOsc k (poAssign fs a.osc[k] (freqOperand T fs f)), .nothing)
  | .poReset _ k => (a.setOsc k a.osc[k].clearPhase, .nothing)
  | .poStep _ k pm =>
    (a.setOsc k (poAdvance a.osc[k]), .real (poOut params a.osc[k] (control T .phaseMod pm)))
  | _ => (a, .nothing)

/-- RFB commands on their bank (R200 to R207). -/
def rfbEffect (T : Settings) (fs : F) (i : Instr) (b : RfbState) : RfbState × Answer :=
  match i with
  | .rfbReset _ => (b.clear, .nothing)
  | .rfbLoadModel _ k ops => (RfbState.markDirty { b with model := b.model.set k (loadedModel T ops) }, .nothing)
  | .rfbSetBase _ f => (RfbState.markDirty { b with base := control T .rfbBase f }, .nothing)
  | .rfbUpdate _ mx my res det =>
    (rfbUpdate params fs b (control T .morph mx) (control T .morph my) (control T .resonance res)
      (control T .rfbDetune det), .nothing)
  | .rfbProcess _ x => (rfbStep b (signal x), .real (rfbOut b (signal x)))
  | .rfbGetAmp _ k => (b, .real b.filt[k].amp)
  | _ => (b, .nothing)

/-- ENV commands on their envelope (R225 to R239). -/
def envEffect (T : Settings) (fs : F) (i : Instr) (n : EnvState) : EnvState × Answer :=
  match i with
  | .envReset _ _ => (n.clear, .nothing)
  | .envSetAttack _ _ t => (EnvState.markDirty { n with attMs := control T .envAttack t }, .nothing)
  | .envSetDecay _ _ t => (EnvState.markDirty { n with decMs := control T .envDecay t }, .nothing)
  | .envSetSustain _ _ level => (EnvState.markDirty { n with sus := control T .envSustain level }, .nothing)
  | .envSetRelease _ _ t => (EnvState.markDirty { n with relMs := control T .envRelease t }, .nothing)
  | .envNoteOn _ _ => ({ n with st := .attack }, .nothing)
  | .envNoteOff _ _ => (if n.st = .idle then n else { n with st := .release }, .nothing)
  | .envProcess _ _ => (envProcess params fs n, .real (envProcess params fs n).level)
  | .envGetLevel _ _ => (n, .real n.level)
  | .envGetState _ _ => (n, .word (stageCode n.st))
  | _ => (n, .nothing)

/-- FB commands on their filter (R255 to R261). -/
def fbEffect (T : Settings) (fs : F) (i : Instr) (b : FbState) : FbState × Answer :=
  match i with
  | .fbReset _ => (b.clear, .nothing)
  | .fbSetCutoff _ f => (FbState.markDirty { b with cutoff := control T .fbCutoff f }, .nothing)
  | .fbSetRes _ r => (FbState.markDirty { b with res := control T .fbRes r }, .nothing)
  | .fbSetMode _ mode => (FbState.markDirty { b with mode := filterModeOf mode }, .nothing)
  | .fbProcess _ x =>
    (fbAdvance (fbFresh params fs b) (signal x), .real (fbOut (fbFresh params fs b) (signal x)))
  | _ => (b, .nothing)

/-- LFO commands on their LFO (R275 to R290). -/
def lfoEffect (T : Settings) (fs : F) (i : Instr) (l : LfoState) : LfoState × Answer :=
  match i with
  | .lfoReset _ => (l.clear, .nothing)
  | .lfoSetRate _ r => (LfoState.markDirty { l with rate := control T .lfoRate r }, .nothing)
  | .lfoSetDepth _ d => ({ l with depth := control T .lfoDepth d }, .nothing)
  | .lfoSetWave _ wave => ({ l with wave := waveOf wave }, .nothing)
  | .lfoSetSync _ sync => (LfoState.markDirty { l with sync := syncOf sync }, .nothing)
  | .lfoSetBpm _ b => (LfoState.markDirty { l with bpm := control T .lfoBpm b }, .nothing)
  | .lfoSetDiv _ d => (LfoState.markDirty { l with div := control T .lfoDiv d }, .nothing)
  | .lfoSeed _ seed => ({ l with rng := seed }, .nothing)
  | .lfoProcess _ => (lfoProcess params fs l, .real (lfoSample (lfoFresh fs l)))
  | .lfoGetValue _ => (l, .real l.last)
  | .lfoProcessBlock _ count =>
    (lfoProcessBlock params fs count.toNat l,
      .real (if count.toNat = 0 then l.last else lfoSample (lfoFresh fs l)))
  | _ => (l, .nothing)

/-- FX commands on the effects chain (R312 to R317). -/
def fxEffect (T : Settings) (fs : F) (i : Instr) (x : FxState) : FxState × Answer :=
  match i with
  | .fxReset => (x.clear, .nothing)
  | .fxSet p w => ({ x with pend := x.pend.set p (fxOperand T p w) }, .nothing)
  | .fxLatch => ({ x with cur := x.pend }, .nothing)
  | .fxModAdd p delta => ({ x with cur := x.cur.set p (fxModulated T p x.cur[p] (F.asF delta)) }, .nothing)
  | .fxProcess w => ((fxProcess params T fs x (signal w)).1, .real (fxProcess params T fs x (signal w)).2)
  | .fxGetParam p => (x, .real x.cur[p])
  | _ => (x, .nothing)

/-- What a command makes of its unit's content, and what it returns (R55: from that content, the settings and the
sample rate alone). -/
def UnitRef.effect (T : Settings) (fs : F) (i : Instr) : (u : UnitRef) → u.Content → u.Content × Answer
  | .ar _, a => arEffect T fs i a
  | .rfb _, b => rfbEffect T fs i b
  | .env _ _, n => envEffect T fs i n
  | .fb _, b => fbEffect T fs i b
  | .lfo _, l => lfoEffect T fs i l
  | .fx, x => fxEffect T fs i x

/-- The state after a command on the unit `u`. -/
def State.runUnit (s : State) (i : Instr) (u : UnitRef) : State :=
  (s.setUnit u (u.effect s.settings s.sys.fs i (s.unit u)).1).answer (u.effect s.settings s.sys.fs i (s.unit u)).2

@[simp] theorem State.runUnit_sys (s : State) (i : Instr) (u : UnitRef) : (s.runUnit i u).sys = s.sys := by
  simp [State.runUnit]
@[simp] theorem State.runUnit_settings (s : State) (i : Instr) (u : UnitRef) :
    (s.runUnit i u).settings = s.settings := by simp [State.runUnit]

/-- The unit a command is addressed to, after it. -/
theorem State.unit_runUnit_same (s : State) (i : Instr) (u : UnitRef) :
    (s.runUnit i u).unit u = (u.effect s.settings s.sys.fs i (s.unit u)).1 := by simp [State.runUnit]

/-- Every other unit, after a command (R55). -/
theorem State.unit_runUnit_other (s : State) (i : Instr) {u w : UnitRef} (h : u ≠ w) :
    (s.runUnit i u).unit w = s.unit w := by
  rw [State.runUnit, State.unit_answer, State.unit_setUnit_other s _ h]

/-- The words a command returns. -/
theorem State.runUnit_results (s : State) (i : Instr) (u : UnitRef) :
    (s.runUnit i u).results s.port =
      s.results s.port ++ (u.effect s.settings s.sys.fs i (s.unit u)).2.words s.nanDraws := by
  simpa [State.runUnit] using State.answer_results (s.setUnit u _) _

/-- A command that leaves its unit as it is does nothing but return. -/
theorem State.runUnit_of_unchanged {s : State} {i : Instr} {u : UnitRef} {r : Answer}
    (h : u.effect s.settings s.sys.fs i (s.unit u) = (s.unit u, r)) : s.runUnit i u = s.answer r := by
  rw [State.runUnit, h, State.setUnit_unit]

/-- `exec` is the unit's effect, for a command with the operand words its format asks (R100). -/
theorem exec_eq_runUnit {i : Instr} {u : UnitRef} (hu : unitOf i = some u) (hi : i.operandsOk = true) (s : State) :
    exec i s = .next (s.runUnit i u) := by
  cases i with
  | sysReset | sysPrepare _ _ => cases hu
  | arLoadModel v k ops => cases hu; exact if_pos (beq_iff_eq.mp hi)
  | rfbLoadModel v k ops => cases hu; exact if_pos (beq_iff_eq.mp hi)
  | arGetAmp v k => cases hu; rw [State.runUnit_of_unchanged rfl]; rfl
  | rfbGetAmp v k => cases hu; rw [State.runUnit_of_unchanged rfl]; rfl
  | envGetLevel v e => cases hu; rw [State.runUnit_of_unchanged rfl]; rfl
  | envGetState v e => cases hu; rw [State.runUnit_of_unchanged rfl]; rfl
  | lfoGetValue j => cases hu; rw [State.runUnit_of_unchanged rfl]; rfl
  | fxGetParam p => cases hu; rw [State.runUnit_of_unchanged rfl]; rfl
  | envNoteOff v e =>
    cases hu
    by_cases hidle : s.env[v][e].st = .idle
    · have hkeep : (UnitRef.env v e).effect s.settings s.sys.fs (.envNoteOff v e) (s.unit (.env v e)) =
          (s.unit (.env v e), .nothing) := congrArg (·, Answer.nothing) (if_pos hidle)
      rw [State.runUnit_of_unchanged hkeep]
      exact congrArg _ (if_pos hidle)
    · exact congrArg _ ((if_neg hidle).trans (congrArg (s.setEnv v e) (if_neg hidle).symm))
  | arUpdate v mx my =>
    cases hu
    simp only [exec, execArUpdate, State.runUnit, UnitRef.effect, arEffect, State.unit, State.setUnit, State.answer]
  | _ => cases hu; rfl

/-- A command that completes has the operand words its format asks. -/
theorem operandsOk_of_exec {i : Instr} {s t : State} (h : exec i s = .next t) : i.operandsOk = true := by
  cases i with
  | arLoadModel v k ops =>
    by_contra hlen
    have hrefused : exec (.arLoadModel v k ops) s = .refused .operandCount := if_neg (hlen ∘ beq_iff_eq.mpr)
    rw [hrefused] at h
    cases h
  | rfbLoadModel v k ops =>
    by_contra hlen
    have hrefused : exec (.rfbLoadModel v k ops) s = .refused .operandCount := if_neg (hlen ∘ beq_iff_eq.mpr)
    rw [hrefused] at h
    cases h
  | _ => rfl

/-- A command that completes leaves what its effect on its unit leaves. -/
theorem exec_runUnit {i : Instr} {u : UnitRef} {s t : State} (hu : unitOf i = some u) (h : exec i s = .next t) :
    t = s.runUnit i u := by
  rw [exec_eq_runUnit hu (operandsOk_of_exec h)] at h
  exact (Host.Outcome.next.inj h).symm

/-! ## SYS.RESET and SYS.PREPARE on each unit -/

/-- A unit's RESET (R330). -/
def UnitRef.clear : (u : UnitRef) → u.Content → u.Content
  | .ar _, a => a.clearPhases
  | .rfb _, b => b.clear
  | .env _ _, n => n.clear
  | .fb _, b => b.clear
  | .lfo _, l => l.clear
  | .fx, x => x.clear

/-- A unit's dirty flag set (R331); FX has none. -/
def UnitRef.markDirty : (u : UnitRef) → u.Content → u.Content
  | .ar _, a => a.markDirty
  | .rfb _, b => b.markDirty
  | .env _ _, n => n.markDirty
  | .fb _, b => b.markDirty
  | .lfo _, l => l.markDirty
  | .fx, x => x

/-- SYS.RESET clears every unit. -/
theorem State.unit_clearSignals (s : State) (u : UnitRef) : s.clearSignals.unit u = u.clear (s.unit u) := by
  cases u <;> simp [State.unit, UnitRef.clear]

/-- SYS.PREPARE sets every flag. -/
theorem State.unit_markAllDirty (s : State) (u : UnitRef) : s.markAllDirty.unit u = u.markDirty (s.unit u) := by
  cases u <;> simp [State.unit, UnitRef.markDirty]

/-- The state SYS.PREPARE leaves (R331). -/
def State.prepared (s : State) (blk : BitVec 16) (fs : Word) : State :=
  State.markAllDirty (State.clearSignals { s with sys := { fs := control s.settings .sysFs fs, block := blk } })

@[simp] theorem State.prepared_sys (s : State) (blk : BitVec 16) (fs : Word) :
    (s.prepared blk fs).sys = ⟨control s.settings .sysFs fs, blk⟩ := by simp [State.prepared]
@[simp] theorem State.prepared_settings (s : State) (blk : BitVec 16) (fs : Word) :
    (s.prepared blk fs).settings = s.settings := by simp [State.prepared]

/-- SYS.PREPARE clears every unit and sets its flag. -/
theorem State.unit_prepared (s : State) (blk : BitVec 16) (fs : Word) (u : UnitRef) :
    (s.prepared blk fs).unit u = u.markDirty (u.clear (s.unit u)) := by
  rw [State.prepared, State.unit_markAllDirty, State.unit_clearSignals]
  cases u <;> rfl

/-! ## Everything a command can have done -/

/-- A command that completes ran on its unit, or cleared every unit, or prepared the machine. -/
theorem exec_next {i : Instr} {s t : State} (h : exec i s = .next t) :
    (∃ u, unitOf i = some u ∧ t = s.runUnit i u) ∨ (i = .sysReset ∧ t = s.clearSignals) ∨
      ∃ blk fs, i = .sysPrepare blk fs ∧ t = s.prepared blk fs := by
  cases hu : unitOf i with
  | some u => exact Or.inl ⟨u, rfl, exec_runUnit hu h⟩
  | none =>
    cases i with
    | sysReset => exact Or.inr (Or.inl ⟨rfl, (Host.Outcome.next.inj h).symm⟩)
    | sysPrepare blk fs => exact Or.inr (Or.inr ⟨blk, fs, rfl, (Host.Outcome.next.inj h).symm⟩)
    | _ => cases hu

/-- A command that is not of SYS ran on its unit. -/
theorem exec_next_unit {i : Instr} {s t : State} (h : exec i s = .next t) (hr : i.op ≠ .sysReset)
    (hp : i.op ≠ .sysPrepare) : ∃ u, unitOf i = some u ∧ t = s.runUnit i u := by
  rcases exec_next h with hunit | ⟨rfl, -⟩ | ⟨blk, fs, rfl, -⟩
  · exact hunit
  · exact absurd rfl hr
  · exact absurd rfl hp

/-- No command writes the settings (assumption 9). -/
theorem exec_settings {i : Instr} {s t : State} (h : exec i s = .next t) : t.settings = s.settings := by
  rcases exec_next h with ⟨u, -, rfl⟩ | ⟨-, rfl⟩ | ⟨blk, fs, -, rfl⟩ <;> simp

/-- Only SYS.PREPARE writes the SYS registers (R37). -/
theorem exec_sys {i : Instr} {s t : State} (h : exec i s = .next t) (hp : i.op ≠ .sysPrepare) : t.sys = s.sys := by
  rcases exec_next h with ⟨u, -, rfl⟩ | ⟨-, rfl⟩ | ⟨blk, fs, rfl, -⟩
  · simp
  · simp
  · exact absurd rfl hp

/-- What holds of a unit's content holds after a command, if the command keeps it where it is addressed to the unit,
and clearing the unit and setting its flag keep it. -/
theorem exec_keeps_unit {i : Instr} {s t : State} (u : UnitRef) (K : u.Content → Prop) (h : exec i s = .next t)
    (hs : K (s.unit u)) (heff : unitOf i = some u → K (u.effect s.settings s.sys.fs i (s.unit u)).1)
    (hclear : ∀ c, K c → K (u.clear c)) (hdirty : ∀ c, K c → K (u.markDirty c)) : K (t.unit u) := by
  rcases exec_next h with ⟨w, hw, rfl⟩ | ⟨-, rfl⟩ | ⟨blk, fs, -, rfl⟩
  · by_cases hwu : w = u
    · subst hwu
      rw [State.unit_runUnit_same]
      exact heff hw
    · rwa [State.unit_runUnit_other s i hwu]
  · rw [State.unit_clearSignals]
    exact hclear _ hs
  · rw [State.unit_prepared]
    exact hdirty _ (hclear _ hs)

/-- Accepting a command changes no unit. -/
@[simp] theorem State.unit_accept (s : State) (p : Port) (rest : List Word) (u : UnitRef) :
    (s.accept p rest).unit u = s.unit u := by
  cases u <;> simp [State.unit]

end Sys2Proof.Machine
end

section
/-!
SUPPORT. A decoded command that names a voice slot names one the machine has (R105, R114).
-/

namespace Sys2Proof

open Machine Config

set_option Elab.async false

/-- A command that names a voice slot has it from the `inst` field, in a row whose `inst` field is a voice slot. -/
def NamesVoice (inst : Nat) (k : InstKind) (r : Option Instr) : Prop :=
  ∀ i v, r = some i → voiceOf i = some v → k = .voice ∧ v.val = inst

theorem namesVoice_none {inst : Nat} {k : InstKind} : NamesVoice inst k none := fun _ _ h => nomatch h

theorem namesVoice_some {inst : Nat} {k : InstKind} {i : Instr} (hi : voiceOf i = none) :
    NamesVoice inst k (some i) := by
  intro j v h hv
  cases h
  rw [hi] at hv
  cases hv

theorem namesVoice_map_other {inst n : Nat} {k : InstKind} {x : Option (Fin n)} {f : Fin n → Instr}
    (hf : ∀ j, voiceOf (f j) = none) : NamesVoice inst k (x.map f) := by
  cases x with
  | none => exact namesVoice_none
  | some j => exact namesVoice_some (hf j)

theorem namesVoice_map {inst : Nat} {f : Voice → Instr} (hf : ∀ v, voiceOf (f v) = some v) :
    NamesVoice inst .voice ((finOf nvMax inst).map f) := by
  intro i v hi hv
  obtain ⟨w, hw, rfl⟩ := Option.map_eq_some_iff.mp hi
  rw [hf, Option.some.injEq] at hv
  exact ⟨rfl, hv ▸ finOf_eq_some hw⟩

theorem namesVoice_bind_map {inst n : Nat} {x : Option (Fin n)} {f : Voice → Fin n → Instr}
    (hf : ∀ v k, voiceOf (f v k) = some v) :
    NamesVoice inst .voice ((finOf nvMax inst).bind fun v => x.map (f v)) := by
  cases x with
  | none => intro i v hi; simp at hi
  | some k => simpa [Option.map_eq_bind, Function.comp_def] using namesVoice_map (inst := inst) fun v => hf v k

/-- Building a command puts the `inst` field in its voice slot, in every row (R105, R106). -/
theorem build_namesVoice (o : Op) (inst idx : Nat) (ws : List Word) :
    NamesVoice inst (row o).inst (build o inst idx ws) := by
  cases o with
  | arLoadModel | rfbLoadModel => exact namesVoice_bind_map fun _ _ => rfl
  | arReset | arProcess | rfbReset | fbReset | fbSetMode =>
    match ws with
    | [] => exact namesVoice_map fun _ => rfl
    | _ :: _ => exact namesVoice_none
  | arSetBase | arSetStretch | arSetEntropy | arSetDetune | arSeed | rfbSetBase | rfbProcess | fbSetCutoff | fbSetRes
  | fbProcess =>
    match ws with
    | [_] => exact namesVoice_map fun _ => rfl
    | [] | _ :: _ :: _ => exact namesVoice_none
  | arUpdate =>
    match ws with
    | [_, _] => exact namesVoice_map fun _ => rfl
    | [] | [_] | _ :: _ :: _ :: _ => exact namesVoice_none
  | rfbUpdate =>
    match ws with
    | [_, _, _, _] => exact namesVoice_map fun _ => rfl
    | [] | [_] | [_, _] | [_, _, _] | _ :: _ :: _ :: _ :: _ :: _ => exact namesVoice_none
  | arGetAmp | poReset | rfbGetAmp | envReset | envNoteOn | envNoteOff | envProcess | envGetLevel | envGetState =>
    match ws with
    | [] => exact namesVoice_bind_map fun _ _ => rfl
    | _ :: _ => exact namesVoice_none
  | poSetFreq | poStep | envSetAttack | envSetDecay | envSetSustain | envSetRelease =>
    match ws with
    | [_] => exact namesVoice_bind_map fun _ _ => rfl
    | [] | _ :: _ :: _ => exact namesVoice_none
  | sysReset | fxReset | fxLatch =>
    match ws with
    | [] => exact namesVoice_some rfl
    | _ :: _ => exact namesVoice_none
  | sysPrepare | fxProcess =>
    match ws with
    | [_] => exact namesVoice_some rfl
    | [] | _ :: _ :: _ => exact namesVoice_none
  | lfoReset | lfoSetWave | lfoSetSync | lfoProcess | lfoGetValue | lfoProcessBlock | fxGetParam =>
    match ws with
    | [] => exact namesVoice_map_other fun _ => rfl
    | _ :: _ => exact namesVoice_none
  | lfoSetRate | lfoSetDepth | lfoSetBpm | lfoSetDiv | lfoSeed | fxSet | fxModAdd =>
    match ws with
    | [_] => exact namesVoice_map_other fun _ => rfl
    | [] | _ :: _ :: _ => exact namesVoice_none

/-- A header nothing is wrong with names a slot or an LFO the machine has (R114). -/
theorem instanceBad_of_headerError_none {nv : Nat} {p : Port} {r : Row} {h : Word} (he : headerError nv p r h = none) :
    instanceBad nv r (headerInst h) = false := by
  unfold headerError at he
  split_ifs at he with hfields hinst
  simpa using hinst

/-- The voice slot of a decoded command is one the machine has (R105, R114). -/
theorem voice_lt_of_decode {nv : Nat} {p : Port} {ws rest : List Word} {i : Instr} {v : Voice}
    (h : decode nv p ws = .command i rest) (hv : voiceOf i = some v) : v.val < nv := by
  cases ws with
  | nil => cases h
  | cons w ws =>
    rcases decode_cons nv p w ws with ⟨-, hd⟩ | ⟨o, -, ⟨e, -, hd⟩ | ⟨he, ⟨-, hd⟩ | ⟨-, hd⟩⟩⟩ <;> rw [hd] at h
    · cases h
    · cases h
    · cases h
    · cases hb : build o (headerInst w) (headerIdx w) (ws.take (row o).operands) with
      | none => rw [hb] at h; cases h
      | some j =>
        rw [hb] at h
        cases h
        obtain ⟨hkind, hslot⟩ := build_namesVoice o _ _ _ _ _ hb hv
        have hinst := instanceBad_of_headerError_none he
        rw [instanceBad, hkind, ← hslot] at hinst
        simpa using hinst

end Sys2Proof

namespace Sys2Proof.Machine

/-- A step of a machine with `nv` voice slots executes no command on a slot beyond them. -/
theorem voice_lt_of_head {s : State} {p : Port} {i : Instr} {rest : List Word} {v : Voice}
    (h : s.head p = .command i rest) (hv : voiceOf i = some v) : v.val < s.settings.nv := voice_lt_of_decode h hv

end Sys2Proof.Machine
end

section
/-!
PROOF. Every step keeps the parameter registers in range (O55): each setter validates what it writes, and whatever
else a command does to its unit writes no parameter.
-/

namespace Sys2Proof.Machine

open Sys2Proof Config

set_option Elab.async false

/-! ## Parameters of one unit (R34, R383) -/

/-- The parameters of a unit are in range. -/
def UnitRef.InRange (T : Settings) : (u : UnitRef) → u.Content → Prop
  | .ar _, a => a.InRange T
  | .rfb _, b => b.InRange T
  | .env _ _, n => n.InRange T
  | .fb _, b => b.InRange T
  | .lfo _, l => l.InRange T
  | .fx, x => x.InRange T

/-- The parameter registers of the state are the sample rate and those of the units. -/
theorem State.paramsInRange_iff (s : State) :
    s.ParamsInRange ↔
      SettingsOk s.settings ∧ inRange s.settings .sysFs s.sys.fs = true ∧
        ∀ u : UnitRef, u.InRange s.settings (s.unit u) := by
  constructor
  · intro h
    refine ⟨h.settings, h.fs, fun u => ?_⟩
    cases u with
    | ar v => exact h.ar v
    | rfb v => exact h.rfb v
    | env v e => exact h.env v e
    | fb v => exact h.fb v
    | lfo j => exact h.lfo j
    | fx => exact h.fx
  · rintro ⟨hT, hfs, hu⟩
    exact {
      settings := hT
      fs := hfs
      ar := fun v => hu (.ar v)
      rfb := fun v => hu (.rfb v)
      env := fun v e => hu (.env v e)
      fb := fun v => hu (.fb v)
      lfo := fun j => hu (.lfo j)
      fx := hu .fx }

/-- Clearing the phases writes no parameter (R160). -/
theorem ArState.clearPhases_inRange {T : Settings} {a : ArState} (h : a.InRange T) : a.clearPhases.InRange T := by
  simpa only [ArState.InRange, ArState.clearPhases] using h

/-- Clearing the memories writes no parameter (R200). -/
theorem RfbState.clear_inRange {T : Settings} {b : RfbState} (h : b.InRange T) : b.clear.InRange T := by
  simpa only [RfbState.InRange, RfbState.clear] using h

/-- RESET writes no parameter (R330). -/
theorem UnitRef.clear_inRange {T : Settings} (u : UnitRef) (c : u.Content) (h : u.InRange T c) :
    u.InRange T (u.clear c) := by
  cases u with
  | ar v => exact ArState.clearPhases_inRange h
  | rfb v => exact RfbState.clear_inRange h
  | _ => exact h

/-- The dirty flag is no parameter. -/
theorem UnitRef.markDirty_inRange {T : Settings} (u : UnitRef) (c : u.Content) (h : u.InRange T c) :
    u.InRange T (u.markDirty c) := by cases u <;> exact h

/-- An element of a vector with one element replaced has what both the new one and the old elements have. -/
theorem forall_getElem_set {α : Type} {n : Nat} {K : Fin n → α → Prop} {xs : Vector α n} {k : Fin n} {x : α}
    (hx : K k x) (h : ∀ j : Fin n, K j xs[j]) (j : Fin n) : K j (xs.set k x)[j] := by
  by_cases hkj : k = j
  · subst hkj
    simpa using hx
  · have hget : (xs.set k x)[j] = xs[j] := Vector.getElem_set_ne k.isLt j.isLt fun e => hkj (Fin.ext e)
    exact hget ▸ h j

/-- A loaded model is in range (R161, R201). -/
theorem loadedModel_inRange {T : Settings} (hT : SettingsOk T) (ops : List Word) :
    (loadedModel T ops).InRange T := by
  intro k
  rw [loadedModel_amp, loadedModel_off]
  exact ⟨control_inRange hT .modelAmp _, control_inRange hT .modelOff _⟩

/-- Loading a model keeps the models in range. -/
theorem loadModel_inRange {T : Settings} (hT : SettingsOk T) {m : Vector ModelState nslot}
    (h : ∀ k : Fin nslot, m[k].InRange T) (slot : SlotIdx) (ops : List Word) (k : Fin nslot) :
    (m.set slot (loadedModel T ops))[k].InRange T :=
  forall_getElem_set (K := fun _ (m : ModelState) => m.InRange T) (loadedModel_inRange hT ops) h k

/-- AR.UPDATE writes derived registers alone (R167). -/
theorem arUpdate_inRange {T : Settings} (P : Params) (fs : F) {a : ArState} (mx my : F) (h : a.InRange T) :
    (arUpdate P fs a mx my).InRange T := by
  simpa only [ArState.InRange, arUpdate, arApply] using h

/-- AR.PROCESS advances the oscillators and the generator alone (R168). -/
theorem arStep_inRange {T : Settings} (P : Params) {a : ArState} (h : a.InRange T) : (arStep P a).InRange T := by
  simpa only [ArState.InRange, arStep] using h

/-- AR and PO commands keep the parameters of their resonator in range. -/
theorem arEffect_inRange {T : Settings} (hT : SettingsOk T) (fs : F) (i : Instr) {a : ArState} (h : a.InRange T) :
    (arEffect T fs i a).1.InRange T := by
  have ⟨hbase, hstretch, hentropy, hdetune, hmodel⟩ := h
  cases i with
  | arReset _ => exact ArState.clearPhases_inRange h
  | arUpdate _ mx my => simpa only [arEffect] using arUpdate_inRange params fs _ _ h
  | arProcess _ => exact arStep_inRange params h
  | arLoadModel _ k ops => exact ⟨hbase, hstretch, hentropy, hdetune, loadModel_inRange hT hmodel k ops⟩
  | arSetBase _ f => exact ⟨control_inRange hT .arBase f, hstretch, hentropy, hdetune, hmodel⟩
  | arSetStretch _ x => exact ⟨hbase, control_inRange hT .arStretch x, hentropy, hdetune, hmodel⟩
  | arSetEntropy _ x => exact ⟨hbase, hstretch, control_inRange hT .arEntropy x, hdetune, hmodel⟩
  | arSetDetune _ x => exact ⟨hbase, hstretch, hentropy, control_inRange hT .arDetune x, hmodel⟩
  | _ => exact h

/-- RFB.UPDATE caches validated operands (R203). -/
theorem rfbUpdate_inRange {T : Settings} (P : Params) (fs : F) {b : RfbState} {mx my res det : F} (h : b.InRange T)
    (hmx : inRange T .morph mx = true) (hmy : inRange T .morph my = true) (hres : inRange T .resonance res = true)
    (hdet : inRange T .rfbDetune det = true) : (rfbUpdate P fs b mx my res det).InRange T := by
  unfold rfbUpdate
  split_ifs
  · exact h
  · obtain ⟨hbase, -, -, -, -, hmodel⟩ := h
    simpa only [RfbState.InRange, rfbRecompute] using ⟨hbase, hmx, hmy, hres, hdet, hmodel⟩

/-- RFB.PROCESS advances the filters alone (R206). -/
theorem rfbStep_inRange {T : Settings} {b : RfbState} (x : F) (h : b.InRange T) : (rfbStep b x).InRange T := by
  simpa only [RfbState.InRange, rfbStep] using h

/-- RFB commands keep the parameters of their bank in range. -/
theorem rfbEffect_inRange {T : Settings} (hT : SettingsOk T) (fs : F) (i : Instr) {b : RfbState}
    (h : b.InRange T) : (rfbEffect T fs i b).1.InRange T := by
  cases i with
  | rfbReset _ => exact RfbState.clear_inRange h
  | rfbProcess _ x => exact rfbStep_inRange _ h
  | rfbLoadModel _ k ops =>
    obtain ⟨hbase, hmx, hmy, hres, hdet, hmodel⟩ := h
    exact ⟨hbase, hmx, hmy, hres, hdet, loadModel_inRange hT hmodel k ops⟩
  | rfbSetBase _ f =>
    obtain ⟨-, hcached⟩ := h
    exact ⟨control_inRange hT .rfbBase f, hcached⟩
  | rfbUpdate _ mx my res det =>
    exact rfbUpdate_inRange params fs h (control_inRange hT .morph mx) (control_inRange hT .morph my)
      (control_inRange hT .resonance res) (control_inRange hT .rfbDetune det)
  | _ => exact h

/-- Recomputing the multipliers writes no parameter (R223). -/
theorem envRecompute_inRange {T : Settings} (P : Params) (fs : F) {n : EnvState} (h : n.InRange T) :
    (envRecompute P fs n).InRange T := by
  unfold envRecompute
  split_ifs <;> exact h

/-- A step of the envelope writes its stage and its level alone (R224). -/
theorem envStep_inRange {T : Settings} {n : EnvState} (h : n.InRange T) : (envStep n).InRange T := by
  unfold envStep
  cases n.st with
  | idle => exact h
  | sustain => exact h
  | attack => show (envAttackStep n).InRange T; unfold envAttackStep; split_ifs <;> exact h
  | decay => show (envDecayStep n).InRange T; unfold envDecayStep; split_ifs <;> exact h
  | release => show (envReleaseStep n).InRange T; unfold envReleaseStep; split_ifs <;> exact h

/-- ENV commands keep the parameters of their envelope in range. -/
theorem envEffect_inRange {T : Settings} (hT : SettingsOk T) (fs : F) (i : Instr) {n : EnvState}
    (h : n.InRange T) : (envEffect T fs i n).1.InRange T := by
  have ⟨hatt, hdec, hsus, hrel⟩ := h
  cases i with
  | envSetAttack _ _ t => exact ⟨control_inRange hT .envAttack t, hdec, hsus, hrel⟩
  | envSetDecay _ _ t => exact ⟨hatt, control_inRange hT .envDecay t, hsus, hrel⟩
  | envSetSustain _ _ level => exact ⟨hatt, hdec, control_inRange hT .envSustain level, hrel⟩
  | envSetRelease _ _ t => exact ⟨hatt, hdec, hsus, control_inRange hT .envRelease t⟩
  | envNoteOff _ _ =>
    show EnvState.InRange T (if n.st = .idle then n else { n with st := .release })
    split_ifs <;> exact h
  | envProcess _ _ => exact envStep_inRange (envRecompute_inRange params fs h)
  | _ => exact h

/-- The lazy recomputation writes no parameter (R260). -/
theorem fbFresh_inRange {T : Settings} (P : Params) (fs : F) {b : FbState} (h : b.InRange T) :
    (fbFresh P fs b).InRange T := by
  unfold fbFresh
  split_ifs <;> exact h

/-- FB commands keep the parameters of their filter in range. -/
theorem fbEffect_inRange {T : Settings} (hT : SettingsOk T) (fs : F) (i : Instr) {b : FbState} (h : b.InRange T) :
    (fbEffect T fs i b).1.InRange T := by
  cases i with
  | fbSetCutoff _ f => exact ⟨control_inRange hT .fbCutoff f, h.2⟩
  | fbSetRes _ r => exact ⟨h.1, control_inRange hT .fbRes r⟩
  | fbProcess _ x => exact fbFresh_inRange params fs h
  | _ => exact h

/-- The lazy recomputation writes no parameter (R272). -/
theorem lfoFresh_inRange {T : Settings} (fs : F) {l : LfoState} (h : l.InRange T) : (lfoFresh fs l).InRange T := by
  unfold lfoFresh
  split_ifs <;> exact h

/-- A phase wrap writes no parameter (R283). -/
theorem lfoWrap_inRange {T : Settings} (P : Params) {l : LfoState} (h : l.InRange T) : (lfoWrap P l).InRange T := by
  unfold lfoWrap
  split_ifs <;> exact h

/-- An advance writes no parameter (R283). -/
theorem lfoAdvance1_inRange {T : Settings} (P : Params) {l : LfoState} (h : l.InRange T) :
    (lfoAdvance1 P l).InRange T := by
  unfold lfoAdvance1
  split_ifs
  · exact lfoWrap_inRange P h
  · exact h

/-- The rest of a block writes no parameter (R285). -/
theorem lfoSkip_inRange {T : Settings} (P : Params) (m : Nat) {l : LfoState} (h : l.InRange T) :
    (lfoSkip P m l).InRange T := by
  unfold lfoSkip
  split_ifs
  · exact Function.Iterate.rec (LfoState.InRange T) h (fun _ => lfoAdvance1_inRange P) m
  · exact h

/-- One sample writes no parameter (R288). -/
theorem lfoProcess_inRange {T : Settings} (P : Params) (fs : F) {l : LfoState} (h : l.InRange T) :
    (lfoProcess P fs l).InRange T := lfoAdvance1_inRange P (lfoFresh_inRange fs h)

/-- A block writes no parameter (R289). -/
theorem lfoProcessBlock_inRange {T : Settings} (P : Params) (fs : F) (count : Nat) {l : LfoState}
    (h : l.InRange T) : (lfoProcessBlock P fs count l).InRange T := by
  unfold lfoProcessBlock
  split_ifs
  · exact h
  · exact lfoSkip_inRange P _ (lfoProcess_inRange P fs h)

/-- LFO commands keep the parameters of their LFO in range. -/
theorem lfoEffect_inRange {T : Settings} (hT : SettingsOk T) (fs : F) (i : Instr) {l : LfoState}
    (h : l.InRange T) : (lfoEffect T fs i l).1.InRange T := by
  have ⟨hrate, hdepth, hbpm, hdiv⟩ := h
  cases i with
  | lfoSetRate _ r => exact ⟨control_inRange hT .lfoRate r, hdepth, hbpm, hdiv⟩
  | lfoSetDepth _ d => exact ⟨hrate, control_inRange hT .lfoDepth d, hbpm, hdiv⟩
  | lfoSetBpm _ b => exact ⟨hrate, hdepth, control_inRange hT .lfoBpm b, hdiv⟩
  | lfoSetDiv _ d => exact ⟨hrate, hdepth, hbpm, control_inRange hT .lfoDiv d⟩
  | lfoProcess _ => exact lfoProcess_inRange params fs h
  | lfoProcessBlock _ count => exact lfoProcessBlock_inRange params fs count.toNat h
  | _ => exact h

/-- A modulated parameter stays in its row: the sum is clamped, with the old value where it is not finite (R315). -/
theorem fxModulated_inRange {T : Settings} (hT : SettingsOk T) {p : Fin nfx} {cur : F}
    (h : inRange T (fxControl p) cur = true) (delta : F) :
    inRange T (fxControl p) (fxModulated T p cur delta) = true := by
  have hrow := hT.rows (fxControl p)
  simp only [rowProper, Bool.and_eq_true] at hrow
  obtain ⟨⟨⟨hlo, hhi⟩, hle⟩, -⟩ := hrow
  unfold fxModulated
  split_ifs
  · exact clampv_inRow _ ⟨(T.range (fxControl p)).lo, (T.range (fxControl p)).hi, cur⟩ hlo hhi hle h
  · exact h

/-- FX.PROCESS writes no pending parameter (R316). -/
@[simp] theorem fxProcess_pend (P : Params) (T : Settings) (fs : F) (x : FxState) (input : F) :
    (fxProcess P T fs x input).1.pend = x.pend := rfl

/-- FX.PROCESS writes no latched parameter (R316). -/
@[simp] theorem fxProcess_cur (P : Params) (T : Settings) (fs : F) (x : FxState) (input : F) :
    (fxProcess P T fs x input).1.cur = x.cur := rfl

/-- FX commands keep the effect parameters in range, pending and latched. -/
theorem fxEffect_inRange {T : Settings} (hT : SettingsOk T) (fs : F) (i : Instr) {x : FxState} (h : x.InRange T) :
    (fxEffect T fs i x).1.InRange T := by
  have hpend : ∀ p : Fin nfx, inRange T (fxControl p) x.pend[p] = true := fun p => (h p).1
  have hcur : ∀ p : Fin nfx, inRange T (fxControl p) x.cur[p] = true := fun p => (h p).2
  cases i with
  | fxSet p w =>
    exact fun q => ⟨forall_getElem_set (K := fun q c => inRange T (fxControl q) c = true)
      (control_inRange hT (fxControl p) w) hpend q, hcur q⟩
  | fxLatch => exact fun q => ⟨hpend q, hpend q⟩
  | fxModAdd p delta =>
    exact fun q => ⟨hpend q, forall_getElem_set (K := fun q c => inRange T (fxControl q) c = true)
      (fxModulated_inRange hT (hcur p) (F.asF delta)) hcur q⟩
  | _ => exact h

/-- A command keeps the parameters of its unit in range. -/
theorem UnitRef.effect_inRange {T : Settings} (hT : SettingsOk T) (fs : F) (i : Instr) (u : UnitRef) {c : u.Content}
    (h : u.InRange T c) : u.InRange T (u.effect T fs i c).1 := by
  cases u with
  | ar v => exact arEffect_inRange hT fs i h
  | rfb v => exact rfbEffect_inRange hT fs i h
  | env v e => exact envEffect_inRange hT fs i h
  | fb v => exact fbEffect_inRange hT fs i h
  | lfo j => exact lfoEffect_inRange hT fs i h
  | fx => exact fxEffect_inRange hT fs i h

/-- A command keeps the sample rate in range (R331). -/
theorem exec_fs_inRange {i : Instr} {s t : State} (h : exec i s = .next t) (hT : SettingsOk s.settings)
    (hfs : inRange s.settings .sysFs s.sys.fs = true) : inRange s.settings .sysFs t.sys.fs = true := by
  rcases exec_next h with ⟨u, -, rfl⟩ | ⟨-, rfl⟩ | ⟨blk, fs, -, rfl⟩
  · rwa [State.runUnit_sys]
  · rwa [State.clearSignals_sys]
  · rw [State.prepared_sys]
    exact control_inRange hT .sysFs fs

/-- Every command keeps every parameter register in range. -/
theorem exec_paramsInRange {i : Instr} {s t : State} (h : exec i s = .next t) (hs : s.ParamsInRange) :
    t.ParamsInRange := by
  rw [State.paramsInRange_iff] at hs ⊢
  obtain ⟨hT, hfs, hunits⟩ := hs
  rw [exec_settings h]
  refine ⟨hT, exec_fs_inRange h hT hfs, fun u => ?_⟩
  exact exec_keeps_unit u (u.InRange s.settings) h (hunits u) (fun _ => u.effect_inRange hT s.sys.fs i (hunits u))
    u.clear_inRange u.markDirty_inRange

/-- Accepting a command writes no parameter. -/
theorem State.accept_paramsInRange {s : State} (h : s.ParamsInRange) (p : Port) (rest : List Word) :
    (s.accept p rest).ParamsInRange := by
  rw [State.paramsInRange_iff] at h ⊢
  simpa using h

/-- Settles O55: a step waits or executes one command, which validates what it writes to a parameter. -/
theorem stepKeepsParametersInRange : Obligations.StepKeepsParametersInRange := by
  intro s t hs hstep
  rcases step_next hstep with ⟨-, rfl⟩ | ⟨i, rest, -, hexec⟩
  · exact hs
  · exact exec_paramsInRange hexec (State.accept_paramsInRange hs _ rest)

end Sys2Proof.Machine
end

section
/-!
PROOF. Every step keeps the stored form (O58): the effect lines stage by stage, and the places beyond the voice
slots, which no decoded command names and which the system commands leave as they are at power-on.
-/

namespace Sys2Proof.Machine

open Sys2Proof Config

set_option Elab.async false

/-! ## The effect lines (R52; assumptions 7, 14) -/

/-- `State.LinesCanonical` of the effects chain alone. -/
def FxState.LinesCanonical (T : Settings) (x : FxState) : Prop :=
  x.dly.wf T.dlyLen = true ∧ x.dlyW < T.dlyLen ∧ x.ch.line.canonical = true ∧ x.rv.line.canonical = true

theorem State.linesCanonical_iff (s : State) : s.LinesCanonical ↔ s.fx.LinesCanonical s.settings := Iff.rfl

/-- Clearing empties the lines; the index is inside since some index was (R312). -/
theorem FxState.clear_linesCanonical {T : Settings} {x : FxState} (h : x.LinesCanonical T) :
    x.clear.LinesCanonical T := by
  obtain ⟨-, hw, -, -⟩ := h
  exact ⟨rfl, Nat.zero_lt_of_lt hw, rfl, rfl⟩

theorem fxChorus_linesCanonical {T : Settings} (P : Params) {x : FxState} (s1 : F) (h : x.LinesCanonical T) :
    (fxChorus P x s1).1.LinesCanonical T := by
  obtain ⟨hdly, hw, hch, hrv⟩ := h
  exact ⟨hdly, hw, kernelCall_canonical P.rawChorus x.ch s1 x.cur[4] hch, hrv⟩

theorem fxDelay_linesCanonical {T : Settings} (fs : F) {x : FxState} (s2 : F) (h : x.LinesCanonical T) :
    (fxDelay T fs x s2).1.LinesCanonical T := by
  obtain ⟨hdly, hw, hch, hrv⟩ := h
  exact ⟨delayStep_wf x _ hw hdly, delayStep_dlyW_lt x _ hw, hch, hrv⟩

theorem fxReverb_linesCanonical {T : Settings} (P : Params) {x : FxState} (s3 : F) (h : x.LinesCanonical T) :
    (fxReverb P x s3).1.LinesCanonical T := by
  obtain ⟨hdly, hw, hch, hrv⟩ := h
  exact ⟨hdly, hw, hch, kernelCall_canonical P.rawReverb x.rv s3 x.cur[5] hrv⟩

/-- FX.PROCESS keeps the lines canonical, stage by stage (R316). -/
theorem fxProcess_linesCanonical {T : Settings} (P : Params) (fs : F) {x : FxState} (input : F)
    (h : x.LinesCanonical T) : (fxProcess P T fs x input).1.LinesCanonical T :=
  fxReverb_linesCanonical P _ (fxDelay_linesCanonical fs _ (fxChorus_linesCanonical P _ h))

/-- FX commands keep the effect lines canonical. -/
theorem fxEffect_linesCanonical {T : Settings} (fs : F) (i : Instr) {x : FxState} (h : x.LinesCanonical T) :
    (fxEffect T fs i x).1.LinesCanonical T := by
  cases i with
  | fxReset => exact FxState.clear_linesCanonical h
  | fxProcess w => exact fxProcess_linesCanonical params fs (signal w) h
  | _ => exact h

/-- Every command keeps the effect lines canonical. -/
theorem exec_linesCanonical {i : Instr} {s t : State} (h : exec i s = .next t) (hs : s.LinesCanonical) :
    t.LinesCanonical := by
  rw [State.linesCanonical_iff] at hs ⊢
  rw [exec_settings h]
  exact exec_keeps_unit .fx (FxState.LinesCanonical s.settings) h hs
    (fun _ => fxEffect_linesCanonical s.sys.fs i hs) (fun _ => FxState.clear_linesCanonical) (fun _ hx => hx)

/-! ## The places beyond the voice slots (R12; assumption 30) -/

/-- A unit after power-on (R400). -/
def UnitRef.powerOn (T : Settings) : (u : UnitRef) → u.Content
  | .ar _ => ArState.powerOn T
  | .rfb _ => RfbState.powerOn T
  | .env _ _ => EnvState.powerOn T
  | .fb _ => FbState.powerOn T
  | .lfo _ => LfoState.powerOn T
  | .fx => FxState.powerOn T

/-- `State.AbsentAtPowerOn`, unit by unit. -/
theorem State.absentAtPowerOn_iff (s : State) :
    s.AbsentAtPowerOn ↔
      ∀ (u : UnitRef) (v : Voice), u.slot = some v → s.settings.nv ≤ v.val → s.unit u = u.powerOn s.settings := by
  constructor
  · intro h u v hu hv
    obtain ⟨har, hrfb, henv, hfb⟩ := h v hv
    cases u with
    | ar _ => cases hu; exact har
    | rfb _ => cases hu; exact hrfb
    | env _ e => cases hu; simp [State.unit, UnitRef.powerOn, henv]
    | fb _ => cases hu; exact hfb
    | lfo _ => cases hu
    | fx => cases hu
  · intro h v hv
    refine ⟨h (.ar v) v rfl hv, h (.rfb v) v rfl hv, Vector.ext fun k hk => ?_, h (.fb v) v rfl hv⟩
    rw [Vector.getElem_replicate]
    exact h (.env v ⟨k, hk⟩) v rfl hv

/-- Clearing a voice's unit at power-on changes nothing. -/
theorem UnitRef.clear_powerOn (T : Settings) {u : UnitRef} {v : Voice} (hu : u.slot = some v) :
    u.clear (u.powerOn T) = u.powerOn T := by
  cases u with
  | ar _ => exact ArState.clear_powerOn T
  | rfb _ => exact RfbState.clear_powerOn T
  | env _ _ => exact EnvState.clear_powerOn T
  | fb _ => exact FbState.clear_powerOn T
  | lfo _ => cases hu
  | fx => cases hu

/-- Every unit's flag is set at power-on. -/
theorem UnitRef.markDirty_powerOn (T : Settings) (u : UnitRef) : u.markDirty (u.powerOn T) = u.powerOn T := by
  cases u <;> rfl

/-- A command on a slot the machine has keeps the places beyond as power-on left them. -/
theorem exec_absentAtPowerOn {i : Instr} {s t : State} (h : exec i s = .next t)
    (hi : ∀ v, voiceOf i = some v → v.val < s.settings.nv) (hs : s.AbsentAtPowerOn) : t.AbsentAtPowerOn := by
  rw [State.absentAtPowerOn_iff] at hs ⊢
  rw [exec_settings h]
  intro u v hu hv
  refine exec_keeps_unit u (· = u.powerOn s.settings) h (hs u v hu hv) (fun haddr => ?_) ?_ ?_
  · exact absurd (hi v ((slot_of_unitOf haddr).symm.trans hu)) (Nat.not_lt.mpr hv)
  · rintro _ rfl
    exact UnitRef.clear_powerOn s.settings hu
  · rintro _ rfl
    exact UnitRef.markDirty_powerOn s.settings u

/-- Settles O58: the lines by the stages of the effects chain, the places beyond the slots since the decoder names
none of them. -/
theorem stepKeepsTheStoredForm : Obligations.StepKeepsTheStoredForm := by
  intro s t hstep
  rcases step_next hstep with ⟨-, rfl⟩ | ⟨i, rest, hhead, hexec⟩
  · exact ⟨id, id⟩
  · refine ⟨fun hlines => ?_, fun habsent => ?_⟩
    · refine exec_linesCanonical hexec ?_
      rw [State.linesCanonical_iff] at hlines ⊢
      simpa using hlines
    · refine exec_absentAtPowerOn hexec (fun v hv => ?_) ?_
      · rw [State.accept_settings]
        exact voice_lt_of_head hhead hv
      · rw [State.absentAtPowerOn_iff] at habsent ⊢
        simpa using habsent

end Sys2Proof.Machine
end

section
/-!
PROOF. Isolation (R55): a command writes the unit it is addressed to and no other (O51), and what it writes and
returns depends on that unit, the settings and the sample rate alone (O52).
-/

namespace Sys2Proof.Machine

open Sys2Proof Config

set_option Elab.async false

/-! ## Writes -/

/-- Settles O51: a command runs on its unit, so a unit of another slot or of another LFO, or FX, is not it. -/
theorem commandsWriteOnlyWhatTheyAddress : Obligations.CommandsWriteOnlyWhatTheyAddress := by
  intro i s t h hreset hprepare
  obtain ⟨u, hu, rfl⟩ := exec_next_unit h hreset hprepare
  refine ⟨s.runUnit_sys i u, fun v hv => ?_, fun j hj => ?_, fun hfx => ?_⟩
  · have kept : ∀ w : UnitRef, w.slot = some v → (s.runUnit i u).unit w = s.unit w := by
      refine fun w hw => s.unit_runUnit_other i ?_
      rintro rfl
      exact hv ((slot_of_unitOf hu).symm.trans hw)
    exact ⟨kept (.ar v) rfl, kept (.rfb v) rfl, env_eq_of_units fun e => kept (.env v e) rfl, kept (.fb v) rfl⟩
  · refine s.unit_runUnit_other (w := .lfo j) i ?_
    rintro rfl
    exact hj (lfoNumber_of_unitOf hu).symm
  · refine s.unit_runUnit_other (w := .fx) i ?_
    rintro rfl
    exact hfx.elim (· (slot_of_unitOf hu).symm) (· (lfoNumber_of_unitOf hu).symm)

/-! ## Reads -/

section
variable {i : Instr} {u : UnitRef} {s1 s2 : State}

/-- Two states that agree on what a command reads agree, after it, on every unit they agreed on before. -/
theorem unit_runUnit_congr (hfs : s1.sys.fs = s2.sys.fs) (hT : s1.settings = s2.settings)
    (hu : s1.unit u = s2.unit u) {w : UnitRef} (hw : s1.unit w = s2.unit w) :
    (s1.runUnit i u).unit w = (s2.runUnit i u).unit w := by
  by_cases huw : u = w
  · subst huw
    rw [State.unit_runUnit_same, State.unit_runUnit_same, hfs, hT, hu]
  · rw [State.unit_runUnit_other s1 i huw, State.unit_runUnit_other s2 i huw, hw]

/-- Two states that agree on what a command reads, and on the port and the NaN counter, get the same words. -/
theorem runUnit_sameWords (hfs : s1.sys.fs = s2.sys.fs) (hT : s1.settings = s2.settings)
    (hdraws : s1.nanDraws = s2.nanDraws) (hu : s1.unit u = s2.unit u) :
    ∃ ws : List Word, (s1.runUnit i u).results s1.port = s1.results s1.port ++ ws ∧
      (s2.runUnit i u).results s2.port = s2.results s2.port ++ ws := by
  refine ⟨_, s1.runUnit_results i u, ?_⟩
  rw [hfs, hT, hdraws, hu]
  exact s2.runUnit_results i u

/-- Two states that hold the same in a slot's registers hold the same in each of the slot's units. -/
theorem unit_eq_of_slot {v : Voice} (har : s1.ar[v] = s2.ar[v]) (hrfb : s1.rfb[v] = s2.rfb[v])
    (henv : s1.env[v] = s2.env[v]) (hfb : s1.fb[v] = s2.fb[v]) {w : UnitRef} (hw : w.slot = some v) :
    s1.unit w = s2.unit w := by
  cases w with
  | ar _ => cases hw; exact har
  | rfb _ => cases hw; exact hrfb
  | env _ e => cases hw; exact congrArg (·[e]) henv
  | fb _ => cases hw; exact hfb
  | lfo _ => cases hw
  | fx => cases hw

end

/-- Settles O52: the unit's effect is a function of what the two states agree on. -/
theorem commandsReadOnlyWhatTheyAddress : Obligations.CommandsReadOnlyWhatTheyAddress := by
  intro i s1 s2 t1 t2 hfs hT _ hdraws h1 h2
  refine ⟨fun v hv har hrfb henv hfb => ?_, fun j hj hlfo => ?_, fun hv hj hreset hprepare hfx => ?_⟩
  · obtain ⟨u, hu, hslot⟩ := unitOf_of_voice hv
    obtain rfl := exec_runUnit hu h1
    obtain rfl := exec_runUnit hu h2
    have before : ∀ w : UnitRef, w.slot = some v → s1.unit w = s2.unit w := fun w => unit_eq_of_slot har hrfb henv hfb
    have after : ∀ w : UnitRef, w.slot = some v → (s1.runUnit i u).unit w = (s2.runUnit i u).unit w :=
      fun w hw => unit_runUnit_congr hfs hT (before u hslot) (before w hw)
    exact ⟨after (.ar v) rfl, after (.rfb v) rfl, env_eq_of_units fun e => after (.env v e) rfl, after (.fb v) rfl,
      runUnit_sameWords hfs hT hdraws (before u hslot)⟩
  · have hu := unitOf_of_lfo hj
    obtain rfl := exec_runUnit hu h1
    obtain rfl := exec_runUnit hu h2
    have before : s1.unit (.lfo j) = s2.unit (.lfo j) := hlfo
    exact ⟨unit_runUnit_congr hfs hT before before, runUnit_sameWords hfs hT hdraws before⟩
  · have hu := unitOf_of_fx hv hj hreset hprepare
    obtain rfl := exec_runUnit hu h1
    obtain rfl := exec_runUnit hu h2
    have before : s1.unit .fx = s2.unit .fx := hfx
    exact ⟨unit_runUnit_congr hfs hT before before, runUnit_sameWords hfs hT hdraws before⟩

end Sys2Proof.Machine
end

section
/-!
PROOF. Who writes what (O53): the registers that only some of a unit's commands write, command by command.
-/

namespace Sys2Proof.Machine

open Sys2Proof Config

set_option Elab.async false

/-! ## What leaves the models and the generators as they are -/

@[simp] theorem ArState.clearPhases_model (a : ArState) : a.clearPhases.model = a.model := by
  simp only [ArState.clearPhases]
@[simp] theorem ArState.clearPhases_rng (a : ArState) : a.clearPhases.rng = a.rng := by
  simp only [ArState.clearPhases]
@[simp] theorem arUpdate_model (P : Params) (fs : F) (a : ArState) (mx my : F) :
    (arUpdate P fs a mx my).model = a.model := by simp only [arUpdate, arApply]
@[simp] theorem arUpdate_rng (P : Params) (fs : F) (a : ArState) (mx my : F) :
    (arUpdate P fs a mx my).rng = a.rng := by simp only [arUpdate, arApply]
@[simp] theorem arStep_model (P : Params) (a : ArState) : (arStep P a).model = a.model := by simp only [arStep]
@[simp] theorem RfbState.clear_model (b : RfbState) : b.clear.model = b.model := by simp only [RfbState.clear]
@[simp] theorem rfbStep_model (b : RfbState) (x : F) : (rfbStep b x).model = b.model := by simp only [rfbStep]
@[simp] theorem rfbUpdate_model (P : Params) (fs : F) (b : RfbState) (mx my res det : F) :
    (rfbUpdate P fs b mx my res det).model = b.model := by
  unfold rfbUpdate
  split_ifs
  · rfl
  · simp only [rfbRecompute]

/-! ## Each register with its writers -/

section
variable (T : Settings) (fs : F) {i : Instr}

/-- Only LOAD_MODEL writes a model of a resonator (R39). -/
theorem arEffect_model (h : i.op ≠ .arLoadModel) (a : ArState) : (arEffect T fs i a).1.model = a.model := by
  cases i with
  | arLoadModel _ _ _ => exact absurd rfl h
  | arReset _ => exact a.clearPhases_model
  | arUpdate _ _ _ => simp only [arEffect, arUpdate_model]
  | arProcess _ => exact arStep_model params a
  | _ => rfl

/-- Only SEED and a drawing command write a resonator's generator (R54). -/
theorem arEffect_rng (hseed : i.op ≠ .arSeed) (hproc : i.op ≠ .arProcess) (a : ArState) :
    (arEffect T fs i a).1.rng = a.rng := by
  cases i with
  | arSeed _ _ => exact absurd rfl hseed
  | arProcess _ => exact absurd rfl hproc
  | arReset _ => exact a.clearPhases_rng
  | arUpdate _ _ _ => simp only [arEffect, arUpdate_rng]
  | _ => rfl

/-- Only LOAD_MODEL writes a model of a filter bank (R39). -/
theorem rfbEffect_model (h : i.op ≠ .rfbLoadModel) (b : RfbState) : (rfbEffect T fs i b).1.model = b.model := by
  cases i with
  | rfbLoadModel _ _ _ => exact absurd rfl h
  | rfbReset _ => exact b.clear_model
  | rfbUpdate _ _ _ _ _ => exact rfbUpdate_model params fs b _ _ _ _
  | rfbProcess _ x => exact rfbStep_model b _
  | _ => rfl

/-- Only SEED and a drawing command write an LFO's generator (R54). -/
theorem lfoEffect_rng (hseed : i.op ≠ .lfoSeed) (hproc : i.op ≠ .lfoProcess) (hblock : i.op ≠ .lfoProcessBlock)
    (l : LfoState) : (lfoEffect T fs i l).1.rng = l.rng := by
  cases i with
  | lfoSeed _ _ => exact absurd rfl hseed
  | lfoProcess _ => exact absurd rfl hproc
  | lfoProcessBlock _ _ => exact absurd rfl hblock
  | _ => rfl

/-- Only FX.SET writes a pending parameter (R51). -/
theorem fxEffect_pend (h : i.op ≠ .fxSet) (x : FxState) : (fxEffect T fs i x).1.pend = x.pend := by
  cases i with
  | fxSet _ _ => exact absurd rfl h
  | fxProcess w => exact fxProcess_pend params T fs x _
  | _ => rfl

/-- Only FX.LATCH and FX.MOD_ADD write a latched parameter (R51, R93). -/
theorem fxEffect_cur (hlatch : i.op ≠ .fxLatch) (hmod : i.op ≠ .fxModAdd) (x : FxState) :
    (fxEffect T fs i x).1.cur = x.cur := by
  cases i with
  | fxLatch => exact absurd rfl hlatch
  | fxModAdd _ _ => exact absurd rfl hmod
  | fxProcess w => exact fxProcess_cur params T fs x _
  | _ => rfl

end

/-- Settles O53: no unit's RESET and no dirty flag is among these registers, so each is left to the commands named. -/
theorem onlyTheNamedCommandsWrite : Obligations.OnlyTheNamedCommandsWrite := by
  intro i s t v j h
  refine ⟨fun hop => ?_, fun hop => ?_, fun hseed hproc => ?_, fun hseed hproc hblock => ?_, exec_sys h,
    fun hop => ?_, fun hlatch hmod => ?_⟩
  · exact exec_keeps_unit (.ar v) (·.model = s.ar[v].model) h rfl (fun _ => arEffect_model _ _ hop _)
      (fun a ha => by simpa only [UnitRef.clear, ArState.clearPhases_model] using ha) (fun _ => id)
  · exact exec_keeps_unit (.rfb v) (·.model = s.rfb[v].model) h rfl (fun _ => rfbEffect_model _ _ hop _)
      (fun b hb => by simpa only [UnitRef.clear, RfbState.clear_model] using hb) (fun _ => id)
  · exact exec_keeps_unit (.ar v) (·.rng = s.ar[v].rng) h rfl (fun _ => arEffect_rng _ _ hseed hproc _)
      (fun a ha => by simpa only [UnitRef.clear, ArState.clearPhases_rng] using ha) (fun _ => id)
  · exact exec_keeps_unit (.lfo j) (·.rng = s.lfo[j].rng) h rfl (fun _ => lfoEffect_rng _ _ hseed hproc hblock _)
      (fun _ => id) (fun _ => id)
  · exact exec_keeps_unit .fx (·.pend = s.fx.pend) h rfl (fun _ => fxEffect_pend _ _ hop _)
      (fun _ => id) (fun _ => id)
  · exact exec_keeps_unit .fx (·.cur = s.fx.cur) h rfl (fun _ => fxEffect_cur _ _ hlatch hmod _)
      (fun _ => id) (fun _ => id)

end Sys2Proof.Machine
end

section
/-!
PROOF. Every step keeps the derived registers coherent (O59): a recomputation writes what a second one would write
again, a setter sets the flag, and the registers that anything else moves are none a recomputation reads or writes.
-/

namespace Sys2Proof.Machine

open Sys2Proof Config

set_option Elab.async false

/-! ## Filter banks (R204) -/

/-- A filter with other memories. -/
def FiltState.withMemories (f : FiltState) (z1 z2 : F) : FiltState := { f with z1 := z1, z2 := z2 }

/-- A bank with other memories in its filters. -/
def RfbState.withMemories (b : RfbState) (z1 z2 : Fin nosc → F) : RfbState :=
  { b with filt := Vector.ofFn fun i => b.filt[i].withMemories (z1 i) (z2 i) }

@[simp] theorem RfbState.withMemories_dirty (b : RfbState) (z1 z2 : Fin nosc → F) :
    (b.withMemories z1 z2).dirty = b.dirty := by simp only [RfbState.withMemories]
@[simp] theorem RfbState.withMemories_lastMx (b : RfbState) (z1 z2 : Fin nosc → F) :
    (b.withMemories z1 z2).lastMx = b.lastMx := by simp only [RfbState.withMemories]
@[simp] theorem RfbState.withMemories_lastMy (b : RfbState) (z1 z2 : Fin nosc → F) :
    (b.withMemories z1 z2).lastMy = b.lastMy := by simp only [RfbState.withMemories]
@[simp] theorem RfbState.withMemories_lastRes (b : RfbState) (z1 z2 : Fin nosc → F) :
    (b.withMemories z1 z2).lastRes = b.lastRes := by simp only [RfbState.withMemories]
@[simp] theorem RfbState.withMemories_lastDet (b : RfbState) (z1 z2 : Fin nosc → F) :
    (b.withMemories z1 z2).lastDet = b.lastDet := by simp only [RfbState.withMemories]

/-- RESET writes memories alone (R200). -/
theorem RfbState.clear_eq_withMemories (b : RfbState) :
    b.clear = b.withMemories (fun _ => F.zero) fun _ => F.zero := by
  unfold RfbState.clear RfbState.withMemories FiltState.clear FiltState.withMemories
  rfl

/-- PROCESS writes memories alone (R197, R206). -/
theorem rfbStep_eq_withMemories (b : RfbState) (x : F) :
    rfbStep b x = b.withMemories (fun i => (filtAdvance b.filt[i] x).z1) fun i => (filtAdvance b.filt[i] x).z2 := by
  unfold rfbStep RfbState.withMemories FiltState.withMemories filtAdvance
  rfl

/-- Tuning a filter neither reads nor writes its memories (R193). -/
theorem rfbSetFilter_withMemories (P : Params) (fs : F) (f : FiltState) (fr amp res z1 z2 : F) :
    rfbSetFilter P fs (f.withMemories z1 z2) fr amp res = (rfbSetFilter P fs f fr amp res).withMemories z1 z2 := by
  unfold rfbSetFilter
  split_ifs <;> rfl

/-- Tuning a filter a second time changes nothing (R193). -/
theorem rfbSetFilter_idem (P : Params) (fs : F) (f : FiltState) (fr amp res : F) :
    rfbSetFilter P fs (rfbSetFilter P fs f fr amp res) fr amp res = rfbSetFilter P fs f fr amp res := by
  unfold rfbSetFilter
  split_ifs <;> rfl

/-- The frequency and the gain RFB.UPDATE gives filter `i`, a zeroed twin's being 0 (R195, R203). -/
def rfbTarget (b : RfbState) (mx my det : F) (i : Fin nosc) : F × F :=
  if isPrimary i then (rfbFreq b (partialOf i) mx my, morph b.model (·.amp) (partialOf i) mx my)
  else if F.fne det F.zero then
    (F.mul (rfbFreq b (partialOf i) mx my) (F.add F.one det), F.mul kUni (morph b.model (·.amp) (partialOf i) mx my))
  else (F.zero, F.zero)

/-- RFB.UPDATE sets each filter to its frequency and gain. -/
theorem rfbTuned_eq (P : Params) (fs : F) (b : RfbState) (mx my res det : F) (i : Fin nosc) :
    rfbTuned P fs b mx my res det i =
      rfbSetFilter P fs b.filt[i] (rfbTarget b mx my det i).1 (rfbTarget b mx my det i).2 res := by
  unfold rfbTuned rfbTarget
  split_ifs <;> rfl

section
variable (P : Params) (fs : F) (b : RfbState) (mx my res det : F)

/-- A recomputed bank's filters. -/
theorem rfbRecompute_get (i : Fin nosc) :
    (rfbRecompute P fs b mx my res det).filt[i] =
      rfbSetFilter P fs b.filt[i] (rfbTarget b mx my det i).1 (rfbTarget b mx my det i).2 res := by
  simp [rfbRecompute, rfbTuned_eq]

/-- Recomputing a bank neither reads nor writes its memories (R193). -/
theorem rfbRecompute_withMemories (z1 z2 : Fin nosc → F) :
    rfbRecompute P fs (b.withMemories z1 z2) mx my res det = (rfbRecompute P fs b mx my res det).withMemories z1 z2 := by
  have hfilt : rfbTuned P fs (b.withMemories z1 z2) mx my res det =
      fun i => (rfbTuned P fs b mx my res det i).withMemories (z1 i) (z2 i) := by
    funext i
    rw [rfbTuned_eq, rfbTuned_eq, ← rfbSetFilter_withMemories]
    simp [RfbState.withMemories, rfbTarget, rfbFreq]
  rw [rfbRecompute, hfilt]
  simp [rfbRecompute, RfbState.withMemories]

/-- Recomputing a bank a second time changes nothing. -/
theorem rfbRecompute_idem :
    rfbRecompute P fs (rfbRecompute P fs b mx my res det) mx my res det = rfbRecompute P fs b mx my res det := by
  have hfilt : rfbTuned P fs (rfbRecompute P fs b mx my res det) mx my res det = rfbTuned P fs b mx my res det := by
    funext i
    rw [rfbTuned_eq, rfbRecompute_get, rfbTuned_eq]
    simp [rfbRecompute, rfbTarget, rfbFreq, rfbSetFilter_idem]
  rw [rfbRecompute, hfilt]
  simp only [rfbRecompute]

end

/-- A coherent bank stays so under other memories. -/
theorem RfbState.Fresh.withMemories {fs : F} {b : RfbState} (h : b.Fresh fs) (z1 z2 : Fin nosc → F) :
    (b.withMemories z1 z2).Fresh fs := by
  simp only [RfbState.Fresh, RfbState.withMemories_dirty, RfbState.withMemories_lastMx, RfbState.withMemories_lastMy,
    RfbState.withMemories_lastRes, RfbState.withMemories_lastDet, rfbRecompute_withMemories]
  exact fun hclean => congrArg (·.withMemories z1 z2) (h hclean)

/-- RESET leaves a coherent bank coherent (R200). -/
theorem RfbState.clear_fresh {fs : F} {b : RfbState} (h : b.Fresh fs) : b.clear.Fresh fs := by
  rw [b.clear_eq_withMemories]
  exact h.withMemories _ _

/-- PROCESS leaves a coherent bank coherent (R206). -/
theorem rfbStep_fresh {fs : F} {b : RfbState} (x : F) (h : b.Fresh fs) : (rfbStep b x).Fresh fs := by
  rw [rfbStep_eq_withMemories]
  exact h.withMemories _ _

/-- RFB.UPDATE leaves a coherent bank coherent: it recomputes, or returns early and writes nothing (R203). -/
theorem rfbUpdate_fresh {fs : F} {b : RfbState} (h : b.Fresh fs) (mx my res det : F) :
    (rfbUpdate params fs b mx my res det).Fresh fs := by
  unfold rfbUpdate
  split_ifs
  · exact h
  · exact fun _ => rfbRecompute_idem params fs b mx my res det

/-- RFB commands keep a coherent bank coherent. -/
theorem rfbEffect_fresh (T : Settings) {fs : F} (i : Instr) {b : RfbState} (h : b.Fresh fs) :
    (rfbEffect T fs i b).1.Fresh fs := by
  cases i with
  | rfbReset _ => exact RfbState.clear_fresh h
  | rfbProcess _ x => exact rfbStep_fresh (signal x) h
  | rfbUpdate _ _ _ _ _ => exact rfbUpdate_fresh h _ _ _ _
  | rfbLoadModel _ _ _ | rfbSetBase _ _ => exact fun hclean => nomatch hclean
  | _ => exact h

/-! ## Envelopes (R223) -/

/-- A recomputed envelope is coherent. -/
theorem envRecompute_fresh {fs : F} {n : EnvState} (h : n.Fresh fs) : (envRecompute params fs n).Fresh fs := by
  unfold envRecompute
  split_ifs
  · exact fun _ => ⟨rfl, rfl, rfl⟩
  · exact h

/-- A step of the envelope writes its stage and its level alone (R224), which no multiplier is computed from. -/
theorem envStep_fresh {fs : F} {n : EnvState} (h : n.Fresh fs) : (envStep n).Fresh fs := by
  unfold envStep
  cases n.st with
  | idle => exact h
  | sustain => exact h
  | attack => show (envAttackStep n).Fresh fs; unfold envAttackStep; split_ifs <;> exact h
  | decay => show (envDecayStep n).Fresh fs; unfold envDecayStep; split_ifs <;> exact h
  | release => show (envReleaseStep n).Fresh fs; unfold envReleaseStep; split_ifs <;> exact h

/-- ENV commands keep a coherent envelope coherent. -/
theorem envEffect_fresh (T : Settings) {fs : F} (i : Instr) {n : EnvState} (h : n.Fresh fs) :
    (envEffect T fs i n).1.Fresh fs := by
  cases i with
  | envSetAttack _ _ _ | envSetDecay _ _ _ | envSetSustain _ _ _ | envSetRelease _ _ _ =>
    exact fun hclean => nomatch hclean
  | envNoteOff _ _ =>
    show EnvState.Fresh fs (if n.st = .idle then n else { n with st := .release })
    split_ifs <;> exact h
  | envProcess _ _ => exact envStep_fresh (envRecompute_fresh h)
  | _ => exact h

/-! ## Biquad filters (R260) -/

/-- A filter after its lazy recomputation is coherent: the coefficients are computed from none of themselves (R254). -/
theorem fbFresh_fresh {fs : F} {b : FbState} (h : b.Fresh fs) : (fbFresh params fs b).Fresh fs := by
  unfold fbFresh
  split_ifs
  · exact fun _ => rfl
  · exact h

/-- A coherent filter stays so under other memories. -/
theorem FbState.Fresh.withMemories {fs : F} {b : FbState} (h : b.Fresh fs) (z1 z2 : F) :
    FbState.Fresh fs { b with z1 := z1, z2 := z2 } :=
  fun hclean => congrArg (fun b : FbState => { b with z1 := z1, z2 := z2 }) (h hclean)

/-- FB commands keep a coherent filter coherent. -/
theorem fbEffect_fresh (T : Settings) {fs : F} (i : Instr) {b : FbState} (h : b.Fresh fs) :
    (fbEffect T fs i b).1.Fresh fs := by
  cases i with
  | fbReset _ => exact h.withMemories _ _
  | fbProcess _ x => exact (fbFresh_fresh h).withMemories _ _
  | fbSetCutoff _ _ | fbSetRes _ _ | fbSetMode _ _ => exact fun hclean => nomatch hclean
  | _ => exact h

/-! ## LFOs (R272) -/

/-- An LFO after its lazy recomputation is coherent. -/
theorem lfoFresh_fresh {fs : F} {l : LfoState} (h : l.Fresh fs) : (lfoFresh fs l).Fresh fs := by
  unfold lfoFresh
  split_ifs
  · exact fun _ => rfl
  · exact h

/-- An advance writes the phase, the held values and the generator alone (R283), which no increment is computed
from. -/
theorem lfoAdvance1_fresh (P : Params) {fs : F} {l : LfoState} (h : l.Fresh fs) : (lfoAdvance1 P l).Fresh fs := by
  unfold lfoAdvance1 lfoWrap
  split_ifs <;> exact h

/-- Skipping the rest of a block writes no more than advancing (R285). -/
theorem lfoSkip_fresh (P : Params) {fs : F} (m : Nat) {l : LfoState} (h : l.Fresh fs) : (lfoSkip P m l).Fresh fs := by
  unfold lfoSkip
  split_ifs
  · exact Function.Iterate.rec (LfoState.Fresh fs) h (fun _ => lfoAdvance1_fresh P) m
  · exact h

/-- One sample leaves a coherent LFO coherent (R288). -/
theorem lfoProcess_fresh (P : Params) {fs : F} {l : LfoState} (h : l.Fresh fs) : (lfoProcess P fs l).Fresh fs :=
  lfoAdvance1_fresh P (lfoFresh_fresh h)

/-- A block leaves a coherent LFO coherent (R289). -/
theorem lfoProcessBlock_fresh (P : Params) {fs : F} (count : Nat) {l : LfoState} (h : l.Fresh fs) :
    (lfoProcessBlock P fs count l).Fresh fs := by
  unfold lfoProcessBlock
  split_ifs
  · exact h
  · exact lfoSkip_fresh P _ (lfoProcess_fresh P h)

/-- LFO commands keep a coherent LFO coherent. -/
theorem lfoEffect_fresh (T : Settings) {fs : F} (i : Instr) {l : LfoState} (h : l.Fresh fs) :
    (lfoEffect T fs i l).1.Fresh fs := by
  cases i with
  | lfoSetRate _ _ | lfoSetSync _ _ | lfoSetBpm _ _ | lfoSetDiv _ _ => exact fun hclean => nomatch hclean
  | lfoProcess _ => exact lfoProcess_fresh params h
  | lfoProcessBlock _ count => exact lfoProcessBlock_fresh params count.toNat h
  | _ => exact h

/-! ## The whole state -/

/-- A unit's derived registers are coherent; of AR, whose UPDATE caches no operands, and FX nothing is said. -/
def UnitRef.Fresh (fs : F) : (u : UnitRef) → u.Content → Prop
  | .rfb _, b => b.Fresh fs
  | .env _ _, n => n.Fresh fs
  | .fb _, b => b.Fresh fs
  | .lfo _, l => l.Fresh fs
  | .ar _, _ | .fx, _ => True

/-- The derived registers of the state are those of its units. -/
theorem State.derivedFresh_iff (s : State) : s.DerivedFresh ↔ ∀ u : UnitRef, u.Fresh s.sys.fs (s.unit u) := by
  constructor
  · rintro ⟨hrfb, henv, hfb, hlfo⟩ u
    cases u with
    | ar v => trivial
    | rfb v => exact hrfb v
    | env v e => exact henv v e
    | fb v => exact hfb v
    | lfo j => exact hlfo j
    | fx => trivial
  · exact fun h => ⟨fun v => h (.rfb v), fun v e => h (.env v e), fun v => h (.fb v), fun j => h (.lfo j)⟩

/-- A command keeps a coherent unit coherent. -/
theorem UnitRef.effect_fresh (T : Settings) {fs : F} (i : Instr) (u : UnitRef) {c : u.Content} (h : u.Fresh fs c) :
    u.Fresh fs (u.effect T fs i c).1 := by
  cases u with
  | ar v => trivial
  | rfb v => exact rfbEffect_fresh T i h
  | env v e => exact envEffect_fresh T i h
  | fb v => exact fbEffect_fresh T i h
  | lfo j => exact lfoEffect_fresh T i h
  | fx => trivial

/-- RESET writes signal registers alone (R330), which no derived register is computed from. -/
theorem UnitRef.clear_fresh {fs : F} (u : UnitRef) {c : u.Content} (h : u.Fresh fs c) : u.Fresh fs (u.clear c) := by
  cases u with
  | ar _ | fx => trivial
  | rfb v => exact RfbState.clear_fresh h
  | fb v => exact FbState.Fresh.withMemories h _ _
  | env _ _ | lfo _ => exact h

/-- Nothing is asked of a unit whose flag is set, at any sample rate. -/
theorem UnitRef.markDirty_fresh (fs : F) (u : UnitRef) (c : u.Content) : u.Fresh fs (u.markDirty c) := by
  cases u with
  | ar _ | fx => trivial
  | _ => exact fun hclean => nomatch hclean

/-- Every command keeps the derived registers coherent: SYS.PREPARE, which alone writes the sample rate they are
computed from, sets every flag (R331). -/
theorem exec_derivedFresh {i : Instr} {s t : State} (h : exec i s = .next t) (hs : s.DerivedFresh) :
    t.DerivedFresh := by
  rw [State.derivedFresh_iff] at hs ⊢
  intro w
  rcases exec_next h with ⟨u, -, rfl⟩ | ⟨-, rfl⟩ | ⟨blk, fs, -, rfl⟩
  · rw [State.runUnit_sys]
    by_cases huw : u = w
    · subst huw
      rw [State.unit_runUnit_same]
      exact u.effect_fresh _ i (hs u)
    · rw [State.unit_runUnit_other s i huw]
      exact hs w
  · rw [State.unit_clearSignals, State.clearSignals_sys]
    exact w.clear_fresh (hs w)
  · rw [State.unit_prepared]
    exact w.markDirty_fresh _ _

/-- Settles O59: a step waits, or executes a command on a state whose units are as they were. -/
theorem stepKeepsDerivedStateFresh : Obligations.StepKeepsDerivedStateFresh := by
  intro s t hs h
  rcases step_next h with ⟨-, rfl⟩ | ⟨i, rest, -, hexec⟩
  · exact hs
  · refine exec_derivedFresh hexec ((State.derivedFresh_iff _).mpr fun u => ?_)
    rw [State.unit_accept, State.accept_sys]
    exact (State.derivedFresh_iff s).mp hs u

end Sys2Proof.Machine
end

section
/-!
PROOF. What a command returns and what it leaves alone: one word per returning command (O50), the six getters (O27),
and idempotence (O54). Each is a fact about the command's effect on its unit, or about SYS.RESET and SYS.PREPARE.
-/

namespace Sys2Proof.Machine

open Sys2Proof Config

set_option Elab.async false

/-! ## The model's own fields (assumptions 1 to 3, 9) -/

/-- `t` has the channels, order, turn, port and settings of `s`. -/
structure SameBookkeeping (s t : State) : Prop where
  cmdA : t.cmdA = s.cmdA
  cmdC : t.cmdC = s.cmdC
  order : t.order = s.order
  turn : t.turn = s.turn
  port : t.port = s.port
  settings : t.settings = s.settings

theorem SameBookkeeping.trans {s t r : State} (h : SameBookkeeping s t) (h' : SameBookkeeping t r) :
    SameBookkeeping s r :=
  ⟨h'.cmdA.trans h.cmdA, h'.cmdC.trans h.cmdC, h'.order.trans h.order, h'.turn.trans h.turn, h'.port.trans h.port,
    h'.settings.trans h.settings⟩

theorem State.setUnit_bookkeeping (s : State) (u : UnitRef) (c : u.Content) : SameBookkeeping s (s.setUnit u c) := by
  cases u <;> exact ⟨rfl, rfl, rfl, rfl, rfl, rfl⟩

theorem State.answer_bookkeeping (s : State) (r : Answer) : SameBookkeeping s (s.answer r) := by
  constructor <;> cases r <;> simp [State.answer]

/-- No command writes the model's own channels, order, turn and port, or the settings. -/
theorem exec_bookkeeping {i : Instr} {s t : State} (h : exec i s = .next t) : SameBookkeeping s t := by
  rcases exec_next h with ⟨u, -, rfl⟩ | ⟨-, rfl⟩ | ⟨blk, fs, -, rfl⟩
  · exact (s.setUnit_bookkeeping u _).trans (State.answer_bookkeeping _ _)
  · constructor <;> simp
  · constructor <;> simp [State.prepared]

/-! ## Result queues (R88) -/

/-- The other port's queue is not touched by returning. -/
theorem State.answer_results_other (s : State) (r : Answer) {p : Port} (hp : s.port ≠ p) :
    (s.answer r).results p = s.results p := by
  cases r with
  | nothing => rfl
  | word w => exact (pushWord_results s w p).trans (if_neg hp)
  | real x => exact (pushReal_results params s x p).trans (if_neg hp)

/-- SYS.RESET and SYS.PREPARE return nothing. -/
theorem State.clearSignals_results (s : State) (p : Port) : s.clearSignals.results p = s.results p := by
  cases p <;> simp [State.results]
theorem State.prepared_results (s : State) (blk : BitVec 16) (fs : Word) (p : Port) :
    (s.prepared blk fs).results p = s.results p := by
  cases p <;> simp [State.results, State.prepared]

/-- A command returns one word if the table says so, and none otherwise. -/
theorem UnitRef.effect_words {i : Instr} {u : UnitRef} (hu : unitOf i = some u) (T : Settings) (fs : F) (c : u.Content)
    (n : Nat) : ((u.effect T fs i c).2.words n).length = if i.returnsWord then 1 else 0 := by
  cases i with
  | sysReset | sysPrepare _ _ => cases hu
  | _ => cases hu; rfl

/-- What a command appends to the queues: to its own port's one word or none, as the table says, to the other's
nothing. -/
theorem exec_results {i : Instr} {s t : State} (h : exec i s = .next t) :
    (∃ ws : List Word, ws.length = (if i.returnsWord then 1 else 0) ∧ t.results s.port = s.results s.port ++ ws) ∧
      t.results (otherPort s.port) = s.results (otherPort s.port) := by
  rcases exec_next h with ⟨u, hu, rfl⟩ | ⟨rfl, rfl⟩ | ⟨blk, fs, rfl, rfl⟩
  · refine ⟨⟨_, UnitRef.effect_words hu _ _ _ s.nanDraws, s.runUnit_results i u⟩, ?_⟩
    have hother : s.port ≠ otherPort s.port := by cases s.port <;> decide
    rw [State.runUnit, State.answer_results_other _ _ (by simpa using hother), State.setUnit_results]
  · exact ⟨⟨[], rfl, by simp [State.clearSignals_results]⟩, s.clearSignals_results _⟩
  · exact ⟨⟨[], rfl, by simp [State.prepared_results]⟩, s.prepared_results blk fs _⟩

/-- The returning commands (R88, R103). -/
theorem returnsWord_iff (i : Instr) :
    i.returnsWord = true ↔ i.op ∈ ([.arProcess, .arGetAmp, .poStep, .rfbProcess, .rfbGetAmp, .envProcess, .envGetLevel,
      .envGetState, .fbProcess, .lfoProcess, .lfoProcessBlock, .lfoGetValue, .fxProcess, .fxGetParam] : List Op) := by
  unfold Instr.returnsWord
  cases i.op <;> decide

/-- Settles O50: the words appended are those of the command's effect, one or none by the table. -/
theorem oneWordPerReturningCommand : Obligations.OneWordPerReturningCommand := by
  intro i s t h
  obtain ⟨⟨ws, hlen, hown⟩, hother⟩ := exec_results h
  obtain ⟨hcmdA, hcmdC, horder, hturn, hport, hsettings⟩ := exec_bookkeeping h
  refine ⟨fun hop => ?_, fun hnone => ?_, hother, returnsWord_iff i, hcmdA, hcmdC, horder, hturn, hport, hsettings⟩
  · rw [if_pos ((returnsWord_iff i).mpr hop)] at hlen
    obtain ⟨w, rfl⟩ := List.length_eq_one_iff.mp hlen
    exact ⟨w, hown⟩
  · rw [hnone] at hlen
    obtain rfl := List.eq_nil_of_length_eq_zero hlen
    rw [hown, List.append_nil]

/-! ## Getters (R89, R392) -/

/-- Settles O27: each getter is one returned value, and nothing else. -/
theorem gettersReturnAndChangeNothing : Obligations.GettersReturnAndChangeNothing := by
  intro v i e j p s
  exact ⟨⟨_, rfl, pushReal_returned params s _⟩, ⟨_, rfl, pushReal_returned params s _⟩,
    ⟨_, rfl, pushReal_returned params s _⟩, ⟨_, rfl, s.pushWord_nanDraws _, pushWord_appended s _⟩,
    ⟨_, rfl, pushReal_returned params s _⟩, ⟨_, rfl, pushReal_returned params s _⟩⟩

end Sys2Proof.Machine
end

section
/-!
SUPPORT. The encoding of a command, decoded: the whole of it gives the command back (R100 to R107), a part of it is
incomplete (R85), and words that decode to a command are its encoding (R113).
-/

namespace Sys2Proof

open Config

set_option Elab.async false

/-! ## The laws of one constructor each, for every command -/

/-- The fields of every command fit the header. -/
theorem fieldsFit (i : Instr) : Laws.FieldsFit.Statement i :=
  open Laws.FieldsFit in Instr.rec
    sysReset sysPrepare arReset arLoadModel arSetBase arSetStretch arSetEntropy arSetDetune arSeed arUpdate
    arProcess arGetAmp poSetFreq poReset poStep rfbReset rfbLoadModel rfbSetBase rfbUpdate rfbProcess rfbGetAmp
    envReset envSetAttack envSetDecay envSetSustain envSetRelease envNoteOn envNoteOff envProcess envGetLevel
    envGetState fbReset fbSetCutoff fbSetRes fbSetMode fbProcess lfoReset lfoSetRate lfoSetDepth lfoSetWave
    lfoSetSync lfoSetBpm lfoSetDiv lfoSeed lfoProcess lfoGetValue lfoProcessBlock fxReset fxSet fxLatch fxModAdd
    fxProcess fxGetParam i

/-- Every well-formed command has the operand words of its row. -/
theorem operandWords (i : Instr) : Laws.OperandWords.Statement i :=
  open Laws.OperandWords in Instr.rec
    sysReset sysPrepare arReset arLoadModel arSetBase arSetStretch arSetEntropy arSetDetune arSeed arUpdate
    arProcess arGetAmp poSetFreq poReset poStep rfbReset rfbLoadModel rfbSetBase rfbUpdate rfbProcess rfbGetAmp
    envReset envSetAttack envSetDecay envSetSustain envSetRelease envNoteOn envNoteOff envProcess envGetLevel
    envGetState fbReset fbSetCutoff fbSetRes fbSetMode fbProcess lfoReset lfoSetRate lfoSetDepth lfoSetWave
    lfoSetSync lfoSetBpm lfoSetDiv lfoSeed lfoProcess lfoGetValue lfoProcessBlock fxReset fxSet fxLatch fxModAdd
    fxProcess fxGetParam i

/-- The parts of every command build it again. -/
theorem buildParts (i : Instr) : Laws.BuildParts.Statement i :=
  open Laws.BuildParts in Instr.rec
    sysReset sysPrepare arReset arLoadModel arSetBase arSetStretch arSetEntropy arSetDetune arSeed arUpdate
    arProcess arGetAmp poSetFreq poReset poStep rfbReset rfbLoadModel rfbSetBase rfbUpdate rfbProcess rfbGetAmp
    envReset envSetAttack envSetDecay envSetSustain envSetRelease envNoteOn envNoteOff envProcess envGetLevel
    envGetState fbReset fbSetCutoff fbSetRes fbSetMode fbProcess lfoReset lfoSetRate lfoSetDepth lfoSetWave
    lfoSetSync lfoSetBpm lfoSetDiv lfoSeed lfoProcess lfoGetValue lfoProcessBlock fxReset fxSet fxLatch fxModAdd
    fxProcess fxGetParam i

/-- Nothing in the header of a well-formed command is refused. -/
theorem headerClear (i : Instr) : Laws.HeaderClear.Statement i :=
  open Laws.HeaderClear in Instr.rec
    sysReset sysPrepare arReset arLoadModel arSetBase arSetStretch arSetEntropy arSetDetune arSeed arUpdate
    arProcess arGetAmp poSetFreq poReset poStep rfbReset rfbLoadModel rfbSetBase rfbUpdate rfbProcess rfbGetAmp
    envReset envSetAttack envSetDecay envSetSustain envSetRelease envNoteOn envNoteOff envProcess envGetLevel
    envGetState fbReset fbSetCutoff fbSetRes fbSetMode fbProcess lfoReset lfoSetRate lfoSetDepth lfoSetWave
    lfoSetSync lfoSetBpm lfoSetDiv lfoSeed lfoProcess lfoGetValue lfoProcessBlock fxReset fxSet fxLatch fxModAdd
    fxProcess fxGetParam i

/-! ## The header of a command (R101) -/

/-- The header word of a command (R101). -/
def headerOf (i : Instr) : Word := mkHeader (row i.op).code (parts i).inst (parts i).idx

theorem encode_eq_cons (i : Instr) : encode i = headerOf i :: (parts i).ops := rfl

/-- The header names the command's row. -/
@[simp] theorem opOfCode_headerOf (i : Instr) : opOfCode (headerCode (headerOf i)) = some i.op := by
  rw [headerOf, headerCode_mkHeader _ _ _ (row_code_lt i.op), opOfCode_row]

@[simp] theorem headerInst_headerOf (i : Instr) : headerInst (headerOf i) = (parts i).inst :=
  headerInst_mkHeader _ _ _ (fieldsFit i).1

@[simp] theorem headerIdx_headerOf (i : Instr) : headerIdx (headerOf i) = (parts i).idx :=
  headerIdx_mkHeader _ _ _ (fieldsFit i).2

section
variable {nv : Nat} {p : Port} {i : Instr} (hi : i.WellFormed nv) (hp : i.admittedOn p = true)
include hi hp

/-- Nothing is wrong with the header of a well-formed command the port admits. -/
theorem headerError_headerOf : headerError nv p (row i.op) (headerOf i) = none := by
  obtain ⟨hfields, hinst, hparam⟩ := headerClear i nv hi
  have hadm : admitted p (row i.op) = true := hp
  simp [headerError, hfields, hinst, hparam, hadm]

/-- A header followed by too few operand words is incomplete (R85). -/
theorem decode_of_few_words {ws : List Word} (hws : ws.length < (row i.op).operands) :
    decode nv p (headerOf i :: ws) = .incomplete := by
  simp [decode, headerError_headerOf hi hp, hws]

/-- The words of a command decode to it, and leave the words after it (R100 to R107). -/
theorem decode_encode_append (rest : List Word) : decode nv p (encode i ++ rest) = .command i rest := by
  have hops : (parts i).ops.length = (row i.op).operands := operandWords i nv hi
  have hbuild : build i.op (parts i).inst (parts i).idx (parts i).ops = some i := buildParts i
  simp [encode_eq_cons, decode, headerError_headerOf hi hp, ← hops, hbuild]

/-- Fewer than all of a command's words are incomplete (R85). -/
theorem decode_take_encode {k : Nat} (hk : k < (encode i).length) : decode nv p ((encode i).take k) = .incomplete := by
  cases k with
  | zero => rfl
  | succ k =>
    have hops : (parts i).ops.length = (row i.op).operands := operandWords i nv hi
    rw [encode_eq_cons, List.length_cons, Nat.add_lt_add_iff_right] at hk
    refine decode_of_few_words hi hp ?_
    rw [← hops, List.length_take]
    omega

end

/-! ## From the words back to the command -/

theorem idx_eq_zero {r : Row} {inst idx : Nat} (h : fieldsReserved r inst idx = false) (hr : r.idx = .zero) :
    idx = 0 := by
  simpa [fieldsReserved, hr] using (Bool.or_eq_false_iff.mp h).2

theorem inst_eq_zero {r : Row} {inst idx : Nat} (h : fieldsReserved r inst idx = false) (hr : r.inst = .zero) :
    inst = 0 := by
  simpa [fieldsReserved, hr] using (Bool.or_eq_false_iff.mp h).1

/-- The command read, if any, has the parts `q`. -/
def ReadsAs (q : Parts) (r : Option Instr) : Prop := ∀ i, r = some i → parts i = q

theorem readsAs_none {q : Parts} : ReadsAs q none := fun _ h => nomatch h

theorem readsAs_some {q : Parts} {i : Instr} (h : parts i = q) : ReadsAs q (some i) := fun _ hi => Option.some.inj hi ▸ h

theorem readsAs_map {q : Parts} {n k : Nat} {f : Fin n → Instr} (hf : ∀ j : Fin n, j.val = k → parts (f j) = q) :
    ReadsAs q ((finOf n k).map f) := by
  intro i hi
  obtain ⟨j, hj, rfl⟩ := Option.map_eq_some_iff.mp hi
  exact hf j (finOf_eq_some hj)

theorem readsAs_bind {q : Parts} {n k : Nat} {g : Fin n → Option Instr}
    (hg : ∀ j : Fin n, j.val = k → ReadsAs q (g j)) : ReadsAs q ((finOf n k).bind g) := by
  intro i hi
  obtain ⟨j, hj, hgj⟩ := Option.bind_eq_some_iff.mp hi
  exact hg j (finOf_eq_some hj) i hgj

/-- A command is built from the fields and operand words that are its parts (R105 to R107). -/
theorem build_readsAs (o : Op) {inst idx : Nat} (ws : List Word) (hf : fieldsReserved (row o) inst idx = false)
    (hidx : idx < 2 ^ 16) : ReadsAs ⟨o, inst, idx, ws⟩ (build o inst idx ws) := by
  have hblk : (BitVec.ofNat 16 idx).toNat = idx := Nat.mod_eq_of_lt hidx
  cases o with
  | sysReset | fxReset | fxLatch =>
    obtain rfl := inst_eq_zero hf rfl
    obtain rfl := idx_eq_zero hf rfl
    match ws with
    | [] => exact readsAs_some rfl
    | _ :: _ => exact readsAs_none
  | fxProcess =>
    obtain rfl := inst_eq_zero hf rfl
    obtain rfl := idx_eq_zero hf rfl
    match ws with
    | [_] => exact readsAs_some rfl
    | [] | _ :: _ :: _ => exact readsAs_none
  | sysPrepare =>
    obtain rfl := inst_eq_zero hf rfl
    match ws with
    | [fs] => exact readsAs_some (congrArg (Parts.mk .sysPrepare 0 · [fs]) hblk)
    | [] | _ :: _ :: _ => exact readsAs_none
  | arReset | arProcess | rfbReset | fbReset | lfoReset | lfoProcess | lfoGetValue =>
    obtain rfl := idx_eq_zero hf rfl
    match ws with
    | [] => exact readsAs_map fun _ hk => hk ▸ rfl
    | _ :: _ => exact readsAs_none
  | arSetBase | arSetStretch | arSetEntropy | arSetDetune | arSeed | rfbSetBase | rfbProcess | fbSetCutoff | fbSetRes
  | fbProcess | lfoSetRate | lfoSetDepth | lfoSetBpm | lfoSetDiv | lfoSeed =>
    obtain rfl := idx_eq_zero hf rfl
    match ws with
    | [_] => exact readsAs_map fun _ hk => hk ▸ rfl
    | [] | _ :: _ :: _ => exact readsAs_none
  | arUpdate =>
    obtain rfl := idx_eq_zero hf rfl
    match ws with
    | [_, _] => exact readsAs_map fun _ hk => hk ▸ rfl
    | [] | [_] | _ :: _ :: _ :: _ => exact readsAs_none
  | rfbUpdate =>
    obtain rfl := idx_eq_zero hf rfl
    match ws with
    | [_, _, _, _] => exact readsAs_map fun _ hk => hk ▸ rfl
    | [] | [_] | [_, _] | [_, _, _] | _ :: _ :: _ :: _ :: _ :: _ => exact readsAs_none
  | arLoadModel | rfbLoadModel =>
    exact readsAs_bind fun _ hv => readsAs_map fun _ hk => hv ▸ hk ▸ rfl
  | arGetAmp | poReset | rfbGetAmp | envReset | envNoteOn | envNoteOff | envProcess | envGetLevel | envGetState =>
    match ws with
    | [] => exact readsAs_bind fun _ hv => readsAs_map fun _ hk => hv ▸ hk ▸ rfl
    | _ :: _ => exact readsAs_none
  | poSetFreq | poStep | envSetAttack | envSetDecay | envSetSustain | envSetRelease =>
    match ws with
    | [_] => exact readsAs_bind fun _ hv => readsAs_map fun _ hk => hv ▸ hk ▸ rfl
    | [] | _ :: _ :: _ => exact readsAs_none
  | fbSetMode | lfoSetWave | lfoSetSync | lfoProcessBlock =>
    match ws with
    | [] => exact readsAs_map fun _ hk => hk ▸ congrArg (Parts.mk _ _ · []) hblk
    | _ :: _ => exact readsAs_none
  | fxGetParam =>
    obtain rfl := inst_eq_zero hf rfl
    match ws with
    | [] => exact readsAs_map fun _ hk => hk ▸ rfl
    | _ :: _ => exact readsAs_none
  | fxSet | fxModAdd =>
    obtain rfl := inst_eq_zero hf rfl
    match ws with
    | [_] => exact readsAs_map fun _ hk => hk ▸ rfl
    | [] | _ :: _ :: _ => exact readsAs_none

/-- A header nothing is wrong with has no must-be-zero bit set (R113). -/
theorem fieldsReserved_of_headerError_none {nv : Nat} {p : Port} {r : Row} {h : Word}
    (he : headerError nv p r h = none) : fieldsReserved r (headerInst h) (headerIdx h) = false := by
  unfold headerError at he
  split_ifs at he with hfields
  simpa using hfields

/-- The words consumed by a decoded command are its encoding (R100, R101, R113). -/
theorem eq_encode_of_decode {nv : Nat} {p : Port} {ws rest : List Word} {i : Instr}
    (h : decode nv p ws = .command i rest) : ws = encode i ++ rest := by
  cases ws with
  | nil => cases h
  | cons w ws =>
    rcases decode_cons nv p w ws with ⟨-, hd⟩ | ⟨o, ho, ⟨e, -, hd⟩ | ⟨he, ⟨-, hd⟩ | ⟨-, hd⟩⟩⟩ <;> rw [hd] at h
    · cases h
    · cases h
    · cases h
    · cases hb : build o (headerInst w) (headerIdx w) (ws.take (row o).operands) with
      | none => rw [hb] at h; cases h
      | some j =>
        rw [hb] at h
        cases h
        have hparts := build_readsAs o _ (fieldsReserved_of_headerError_none he) (headerIdx_lt w) _ hb
        rw [encode, hparts, row_of_opOfCode ho, mkHeader_fields, List.cons_append, List.take_append_drop]

end Sys2Proof
end

section
/-!
PROOF. Idempotence (O54, R89): a setter writes the same value again, a RESET clears what is clear, and an UPDATE
recomputes from registers it does not write.
-/

namespace Sys2Proof.Machine

open Sys2Proof Config

set_option Elab.async false

/-! ## The operations on one unit -/

/-- Replacing one oscillator by a function of it twice (R55). -/
theorem ArState.setOsc_idem (a : ArState) (k : Fin nosc) {g : OscState → OscState} (hg : ∀ o, g (g o) = g o) :
    (a.setOsc k (g a.osc[k])).setOsc k (g (a.setOsc k (g a.osc[k])).osc[k]) = a.setOsc k (g a.osc[k]) := by
  simp [ArState.setOsc, hg]

section
variable (P : Params) (fs : F) (a : ArState)

@[simp] theorem arApply_model (parts : Vector (Option (F × F)) nosc) : (arApply fs a parts).model = a.model := by
  simp only [arApply]
@[simp] theorem arApply_base (parts : Vector (Option (F × F)) nosc) : (arApply fs a parts).base = a.base := by
  simp only [arApply]
@[simp] theorem arApply_stretch (parts : Vector (Option (F × F)) nosc) : (arApply fs a parts).stretch = a.stretch := by
  simp only [arApply]
@[simp] theorem arApply_detune (parts : Vector (Option (F × F)) nosc) : (arApply fs a parts).detune = a.detune := by
  simp only [arApply]

/-- A primary's voicing is computed from no derived register (R154, R155). -/
theorem arPrimary_arApply (parts : Vector (Option (F × F)) nosc) (k : Fin np) (mx my : F) :
    arPrimary P fs (arApply fs a parts) k mx my = arPrimary P fs a k mx my := by
  have hfreq : arFreq P (arApply fs a parts) k mx my = arFreq P a k mx my := by
    simp only [arFreq, arExponent, arApply_model, arApply_base, arApply_stretch]
  rw [arPrimary, arPrimary, hfreq, arApply_model]

/-- Nor is a twin's (R156). -/
theorem arTwin_arApply (parts : Vector (Option (F × F)) nosc) (k : Fin np) (mx my : F) :
    arTwin P fs (arApply fs a parts) k mx my = arTwin P fs a k mx my := by
  have htwin (f : F) : arTwinFreq (arApply fs a parts) f = arTwinFreq a f := by
    rw [arTwinFreq, arTwinFreq, arApply_detune]
  rw [arTwin, arTwin, arPrimary_arApply, arApply_detune]
  cases arPrimary P fs a k mx my with
  | none => rfl
  | some part => simp only [htwin]

/-- The frequencies and amplitudes AR.UPDATE derives are computed from none of the registers it writes (R154 to
R156). -/
theorem arVoicing_arApply (parts : Vector (Option (F × F)) nosc) (mx my : F) :
    arVoicing P fs (arApply fs a parts) mx my = arVoicing P fs a mx my := by
  funext i
  rw [arVoicing, arVoicing, arPrimary_arApply, arTwin_arApply]

/-- Writing the derived registers a second time changes nothing (R133, R157). -/
theorem arApply_idem (parts : Vector (Option (F × F)) nosc) :
    arApply fs (arApply fs a parts) parts = arApply fs a parts := by
  simp [arApply, poAssign]

/-- AR.UPDATE a second time changes nothing (R167). -/
theorem arUpdate_idem (mx my : F) : arUpdate P fs (arUpdate P fs a mx my) mx my = arUpdate P fs a mx my := by
  rw [arUpdate, arUpdate, arVoicing_arApply, arApply_idem]

end

/-- RFB.UPDATE a second time changes nothing: it returns early, or recomputes what it recomputed (R203). -/
theorem rfbUpdate_idem (P : Params) (fs : F) (b : RfbState) (mx my res det : F) :
    rfbUpdate P fs (rfbUpdate P fs b mx my res det) mx my res det = rfbUpdate P fs b mx my res det := by
  by_cases hclean : rfbClean b mx my res det = true
  · have hkeep : rfbUpdate P fs b mx my res det = b := if_pos hclean
    rw [hkeep, hkeep]
  · have hwrite : rfbUpdate P fs b mx my res det = rfbRecompute P fs b mx my res det := if_neg hclean
    rw [hwrite, rfbUpdate, rfbRecompute_idem, ite_self]

/-- Loading a model a second time changes nothing (R161, R201). -/
theorem loadModel_idem (m : Vector ModelState nslot) (k : SlotIdx) (x : ModelState) : (m.set k x).set k x = m.set k x :=
  Vector.set_set ..

/-! ## The effect of a command on its unit -/

section
variable (T : Settings) (fs : F) {i : Instr} (hret : i.returnsWord = false)
include hret

/-- AR and PO commands that return nothing. -/
theorem arEffect_idem (a : ArState) : arEffect T fs i (arEffect T fs i a).1 = ((arEffect T fs i a).1, .nothing) := by
  cases i with
  | arReset _ => simp only [arEffect, ArState.clearPhases_idem]
  | arLoadModel _ k ops => simp only [arEffect, ArState.markDirty, loadModel_idem]
  | arUpdate _ mx my => simp only [arEffect, arUpdate_idem]
  | poSetFreq _ k f => simp only [arEffect, a.setOsc_idem k (g := (poAssign fs · (freqOperand T fs f))) fun _ => rfl]
  | poReset _ k => simp only [arEffect, a.setOsc_idem k (g := OscState.clearPhase) fun _ => rfl]
  | arProcess _ | arGetAmp _ _ | poStep _ _ _ => cases hret
  | _ => rfl

/-- RFB commands that return nothing. -/
theorem rfbEffect_idem (b : RfbState) : rfbEffect T fs i (rfbEffect T fs i b).1 = ((rfbEffect T fs i b).1, .nothing) := by
  cases i with
  | rfbReset _ => simp only [rfbEffect, RfbState.clear_idem]
  | rfbLoadModel _ k ops => simp only [rfbEffect, RfbState.markDirty, loadModel_idem]
  | rfbUpdate _ mx my res det => simp only [rfbEffect, rfbUpdate_idem]
  | rfbProcess _ _ | rfbGetAmp _ _ => cases hret
  | _ => rfl

/-- ENV commands that return nothing. -/
theorem envEffect_idem (n : EnvState) : envEffect T fs i (envEffect T fs i n).1 = ((envEffect T fs i n).1, .nothing) := by
  cases i with
  | envNoteOff _ _ =>
    by_cases hidle : n.st = .idle
    · simp [envEffect, hidle]
    · simp [envEffect, hidle]
  | envProcess _ _ | envGetLevel _ _ | envGetState _ _ => cases hret
  | _ => rfl

/-- FB commands that return nothing. -/
theorem fbEffect_idem (b : FbState) : fbEffect T fs i (fbEffect T fs i b).1 = ((fbEffect T fs i b).1, .nothing) := by
  cases i with
  | fbProcess _ _ => cases hret
  | _ => rfl

/-- LFO commands that return nothing. -/
theorem lfoEffect_idem (l : LfoState) : lfoEffect T fs i (lfoEffect T fs i l).1 = ((lfoEffect T fs i l).1, .nothing) := by
  cases i with
  | lfoProcess _ | lfoGetValue _ | lfoProcessBlock _ _ => cases hret
  | _ => rfl

/-- FX commands that return nothing, but FX.MOD_ADD. -/
theorem fxEffect_idem (hmod : i.op ≠ .fxModAdd) (x : FxState) :
    fxEffect T fs i (fxEffect T fs i x).1 = ((fxEffect T fs i x).1, .nothing) := by
  cases i with
  | fxSet p w => exact congrArg (fun pend => ({ x with pend := pend }, Answer.nothing)) (Vector.set_set ..)
  | fxModAdd _ _ => exact absurd rfl hmod
  | fxProcess _ | fxGetParam _ => cases hret
  | _ => rfl

/-- A command that returns nothing, but FX.MOD_ADD, does nothing more to its unit a second time. -/
theorem UnitRef.effect_idem (hmod : i.op ≠ .fxModAdd) (u : UnitRef) (c : u.Content) :
    u.effect T fs i (u.effect T fs i c).1 = ((u.effect T fs i c).1, .nothing) := by
  cases u with
  | ar _ => exact arEffect_idem T fs hret c
  | rfb _ => exact rfbEffect_idem T fs hret c
  | env _ _ => exact envEffect_idem T fs hret c
  | fb _ => exact fbEffect_idem T fs hret c
  | lfo _ => exact lfoEffect_idem T fs hret c
  | fx => exact fxEffect_idem T fs hret hmod c

end

/-! ## SYS.RESET and SYS.PREPARE -/

theorem exec_sysReset (s : State) : exec .sysReset s = .next s.clearSignals := rfl
theorem exec_sysPrepare (s : State) (blk : BitVec 16) (fs : Word) :
    exec (.sysPrepare blk fs) s = .next (s.prepared blk fs) := rfl

/-- Two states are equal that hold the same in every unit and in the fields that are no unit's. -/
theorem State.eq_of_units {s t : State} (hunit : ∀ u, t.unit u = s.unit u) (hsys : t.sys = s.sys)
    (hresults : ∀ p, t.results p = s.results p) (hdraws : t.nanDraws = s.nanDraws) (hbook : SameBookkeeping s t) :
    t = s := by
  have har : t.ar = s.ar := Vector.ext fun k hk => hunit (.ar ⟨k, hk⟩)
  have hrfb : t.rfb = s.rfb := Vector.ext fun k hk => hunit (.rfb ⟨k, hk⟩)
  have henv : t.env = s.env := Vector.ext fun k hk => env_eq_of_units (v := ⟨k, hk⟩) fun e => hunit (.env _ e)
  have hfb : t.fb = s.fb := Vector.ext fun k hk => hunit (.fb ⟨k, hk⟩)
  have hlfo : t.lfo = s.lfo := Vector.ext fun k hk => hunit (.lfo ⟨k, hk⟩)
  obtain ⟨hcmdA, hcmdC, horder, hturn, hport, hsettings⟩ := hbook
  cases s
  cases t
  exact State.mk.injEq .. ▸ ⟨hsys, har, hrfb, henv, hfb, hlfo, hunit .fx, hresults .aud, hresults .ctl, hcmdA, hcmdC,
    horder, hturn, hport, hdraws, hsettings⟩

/-- Clearing a unit a second time changes nothing (R89). -/
theorem UnitRef.clear_idem (u : UnitRef) (c : u.Content) : u.clear (u.clear c) = u.clear c := by
  cases u with
  | ar _ => exact ArState.clearPhases_idem c
  | rfb _ => exact RfbState.clear_idem c
  | _ => rfl

/-- A unit's flag is none of the registers its RESET writes. -/
theorem UnitRef.clear_markDirty (u : UnitRef) (c : u.Content) : u.clear (u.markDirty c) = u.markDirty (u.clear c) := by
  cases u <;> rfl

/-- Setting a flag a second time changes nothing. -/
theorem UnitRef.markDirty_idem (u : UnitRef) (c : u.Content) : u.markDirty (u.markDirty c) = u.markDirty c := by
  cases u <;> rfl

/-- SYS.RESET a second time changes nothing. -/
theorem State.clearSignals_idem (s : State) : s.clearSignals.clearSignals = s.clearSignals := by
  refine State.eq_of_units (fun u => ?_) ?_ (State.clearSignals_results _) ?_ (exec_bookkeeping (exec_sysReset _))
  · rw [State.unit_clearSignals, State.unit_clearSignals, u.clear_idem]
  · rw [State.clearSignals_sys]
  · rw [State.clearSignals_nanDraws]

/-- SYS.PREPARE a second time changes nothing. -/
theorem State.prepared_idem (s : State) (blk : BitVec 16) (fs : Word) :
    (s.prepared blk fs).prepared blk fs = s.prepared blk fs := by
  refine State.eq_of_units (fun u => ?_) ?_ (State.prepared_results _ blk fs) ?_
    (exec_bookkeeping (exec_sysPrepare _ blk fs))
  · rw [State.unit_prepared, State.unit_prepared, u.clear_markDirty, u.clear_idem, u.markDirty_idem]
  · rw [State.prepared_sys, State.prepared_sys, State.prepared_settings]
  · rw [State.prepared, State.markAllDirty_nanDraws, State.clearSignals_nanDraws]

/-- Settles O54: on the command's unit, or for SYS.RESET and SYS.PREPARE on every unit. -/
theorem settersAndResetsAreIdempotent : Obligations.SettersAndResetsAreIdempotent := by
  intro i s t hret hmod h
  rcases exec_next h with ⟨u, hu, rfl⟩ | ⟨rfl, rfl⟩ | ⟨blk, fs, rfl, rfl⟩
  · have hagain : (s.runUnit i u).runUnit i u = (s.runUnit i u).answer .nothing :=
      State.runUnit_of_unchanged (by
        rw [State.runUnit_settings, State.runUnit_sys, State.unit_runUnit_same]
        exact UnitRef.effect_idem _ _ hret hmod u _)
    rw [exec_eq_runUnit hu (operandsOk_of_exec h), hagain]
    rfl
  · rw [exec_sysReset, State.clearSignals_idem]
  · rw [exec_sysPrepare, State.prepared_idem]

end Sys2Proof.Machine
end

section
/-!
PROOF. How a step takes its command: the port served (O10), waiting (O7), the decoded command (O9, O11), and a stream of
commands on port AUD (O12).
-/

namespace Sys2Proof.Machine

open Sys2Proof Config

set_option Elab.async false

/-! ## The port served (R90) -/

/-- There are two ports. -/
theorem eq_otherPort_of_ne {p q : Port} (h : p ≠ q) : p = otherPort q := by
  revert h
  cases p <;> cases q <;> simp [otherPort]

/-- The preferred port is served when it is ready. -/
theorem served_of_ready {s : State} (h : s.ready s.preferred = true) : s.served = s.preferred := if_pos h

/-- A port is served when it alone is ready, whichever is preferred. -/
theorem served_of_only_ready {s : State} {p : Port} (hp : s.ready p = true) (hother : s.ready (otherPort p) = false) :
    s.served = p := by
  by_cases hpref : s.preferred = p
  · exact (served_of_ready (hpref ▸ hp)).trans hpref
  · rw [State.served, eq_otherPort_of_ne hpref, hother]
    cases p <;> rfl

/-- Settles O10: a preferred port that is ready is served, and otherwise the only ready one. -/
theorem servedPortIsReadyAndOrdered : Obligations.ServedPortIsReadyAndOrdered := by
  intro s
  refine ⟨fun haud hctl => served_of_only_ready haud hctl, fun haud hctl => served_of_only_ready hctl haud,
    fun haud hctl => ?_⟩
  have hserved : s.served = s.preferred := served_of_ready (by cases s.preferred <;> assumption)
  exact ⟨fun p ps horder => hserved.trans (by rw [State.preferred, horder]),
    fun horder => hserved.trans (by rw [State.preferred, horder])⟩

/-! ## Waiting and executing (R85 to R87) -/

/-- Settles O7: the header fixes the number of operand words; with nothing whole on either port the served one has
nothing whole. -/
theorem incompleteCommandWaits : Obligations.IncompleteCommandWaits := by
  refine ⟨fun nv p i k hi hp hk => decode_take_encode hi hp hk, fun s haud hctl => step_of_incomplete ?_⟩
  cases s.served with
  | aud => exact haud
  | ctl => exact hctl

/-- Accepting a command, field by field. -/
theorem State.accept_eq (s : State) (p : Port) (rest : List Word) :
    s.accept p rest =
      { s with
        cmdA := if p = .aud then rest else s.cmdA
        cmdC := if p = .ctl then rest else s.cmdC
        port := p
        order := if s.order.head? = some p then s.order.tail else s.order
        turn := s.turn + 1 } := by
  cases p <;> rfl

section
variable {s : State} {p : Port} {i : Instr} {rest : List Word} (hi : i.WellFormed s.settings.nv)
  (hp : i.admittedOn p = true) (hwords : s.channel p = encode i ++ rest)
include hi hp hwords

/-- A channel that starts with a command's words holds the command at its head. -/
theorem head_of_encode : s.head p = .command i rest := by
  rw [State.head, hwords]
  exact decode_encode_append hi hp rest

/-- A port whose channel starts with a command's words is ready. -/
theorem ready_of_encode : s.ready p = true := by
  rw [State.ready, head_of_encode hi hp hwords]
  rfl

/-- A step that serves it executes the command. -/
theorem step_of_encode (hserved : s.served = p) : step s = exec i (s.accept p rest) := by
  subst hserved
  exact step_of_command (head_of_encode hi hp hwords)

end

/-- Settles O9: the served port's channel holds the command at its head. -/
theorem stepRunsTheDecodedCommand : Obligations.StepRunsTheDecodedCommand := by
  intro s p i rest hi hp hserved hwords
  rw [step_of_encode hi hp hwords hserved, State.accept_eq]

/-! ## One presented command (assumption 1) -/

/-- Words that the table's decoder reads as a command are its encoding. -/
theorem tableWords_of_decodeTableWord {nbits w : Nat} {i : Instr} (h : decodeTableWord nbits w = some i) :
    tableWords nbits w = encode i := by
  unfold decodeTableWord at h
  split at h
  · next j hd =>
    cases h
    exact (eq_encode_of_decode hd).trans (List.append_nil _)
  · cases h

/-- Settles O11: the words presented are the command's encoding, and the order names AUD. -/
theorem withFetchWordRunsTheCommand : Obligations.WithFetchWordRunsTheCommand := by
  intro s nbits w i hdecode hi
  have hwords : (s.withFetchWord nbits w).channel .aud = encode i ++ s.cmdA :=
    congrArg (· ++ s.cmdA) (tableWords_of_decodeTableWord hdecode)
  have hserved : (s.withFetchWord nbits w).served = .aud := served_of_ready (ready_of_encode hi rfl hwords)
  exact step_of_encode (s := s.withFetchWord nbits w) hi rfl hwords hserved

/-! ## A stream of commands (R86, R88, R380) -/

/-- A command with the operand words its format asks completes (R380). -/
theorem exec_completes {i : Instr} (hi : i.operandsOk = true) (s : State) : ∃ t, exec i s = .next t := by
  cases hu : unitOf i with
  | some u => exact ⟨_, exec_eq_runUnit hu hi s⟩
  | none =>
    cases i with
    | sysReset => exact ⟨_, exec_sysReset s⟩
    | sysPrepare blk fs => exact ⟨_, exec_sysPrepare s blk fs⟩
    | _ => cases hu

/-- A run whose first step answers goes on from there. -/
theorem run_succ {s t : State} (h : step s = .next t) (n : Nat) :
    Sys2Proof.core.run (n + 1) s = Sys2Proof.core.run n t := by
  have hcore : Sys2Proof.core.step s = .next t := h
  simp only [Host.Core.run, hcore]

/-- Settles O12, by induction on the stream: each step executes the first command and leaves the rest of the stream. -/
theorem audStreamRunsToCompletion : Obligations.AudStreamRunsToCompletion := by
  intro is
  induction is with
  | nil => exact fun s _ hcmdA _ => ⟨s, [], rfl, hcmdA, (List.append_nil _).symm, rfl, rfl⟩
  | cons i is ih =>
    intro s hwf hcmdA hcmdC
    have hi : i.WellFormed s.settings.nv := hwf i List.mem_cons_self
    have hwords : s.channel .aud = encode i ++ is.flatMap encode := hcmdA
    have hserved : s.served = .aud := by
      refine served_of_only_ready (ready_of_encode hi rfl hwords) ?_
      have hctl : s.head .ctl = .incomplete := congrArg (decode _ .ctl) hcmdC
      exact congrArg (· != Decoded.incomplete) hctl
    obtain ⟨t, hexec⟩ := exec_completes (operands_ok hi) (s.accept .aud (is.flatMap encode))
    have hstep : step s = .next t := (step_of_encode hi rfl hwords hserved).trans hexec
    obtain ⟨hA, hC, -, -, -, hsettings⟩ := exec_bookkeeping hexec
    obtain ⟨⟨w, hw, hqa⟩, hqc⟩ := exec_results hexec
    obtain ⟨r, ws, hrun, hrA, hrqa, hws, hrqc⟩ :=
      ih t (fun j hj => hsettings ▸ hwf j (List.mem_cons_of_mem i hj)) hA (hC.trans hcmdC)
    refine ⟨r, w ++ ws, (run_succ hstep _).trans hrun, hrA, ?_, ?_, hrqc.trans hqc⟩
    · have hqa : t.qa = s.qa ++ w := hqa
      rw [hrqa, hqa, List.append_assoc]
    · rw [List.length_append, hw, hws, List.filter_cons]
      split_ifs
      · rw [List.length_cons, Nat.add_comm]
      · rw [Nat.zero_add]

end Sys2Proof.Machine
end

section
/-!
PROOF. The encoding of commands: the round trips of decoding and encoding (O1, O2), the headers refused as reserved
(O4) and for a bad field (O5), and a few commands word by word (O6). R112 to R114 speak of the `unit` and `func` fields
and the model of the rows of its table, so the table is first read by unit and function.
-/

namespace Sys2Proof.Machine

open Sys2Proof Config

/-! ## The round trips (R100 to R107) -/

/-- Settles O1: port AUD admits every command. -/
theorem decodeOfEncodeIsTheCommand : Obligations.DecodeOfEncodeIsTheCommand :=
  fun _ _ rest hi => decode_encode_append hi rfl rest

/-- A command with as many operand words as its row says meets R100's operand count. -/
theorem operandsOk_of_length {i : Instr} (h : (parts i).ops.length = (row i.op).operands) : i.operandsOk = true := by
  cases i with
  | arLoadModel _ _ _ | rfbLoadModel _ _ _ => exact beq_iff_eq.mpr h
  | _ => rfl

/-- What decoding a command has checked: its header, and that all its operand words are there. -/
theorem checked_of_decode {nv : Nat} {p : Port} {ws rest : List Word} {i : Instr}
    (h : decode nv p ws = .command i rest) :
    headerError nv p (row i.op) (headerOf i) = none ∧ (parts i).ops.length = (row i.op).operands := by
  rw [eq_encode_of_decode h, encode_eq_cons, List.cons_append] at h
  rcases decode_cons nv p (headerOf i) ((parts i).ops ++ rest) with
    ⟨-, hd⟩ | ⟨o, ho, ⟨e, -, hd⟩ | ⟨he, ⟨-, hd⟩ | ⟨hlen, hd⟩⟩⟩ <;> rw [hd] at h
  · cases h
  · cases h
  · cases h
  · obtain rfl : i.op = o := Option.some.inj ((opOfCode_headerOf i).symm.trans ho)
    refine ⟨he, ?_⟩
    split at h
    · injection h with _ hrest
      have hcount := congrArg List.length hrest
      rw [List.length_drop, List.length_append] at hcount
      rw [List.length_append] at hlen
      omega
    · cases h

/-- A header nothing is wrong with is of a command the port admits (R388). -/
theorem admitted_of_headerError_none {nv : Nat} {p : Port} {r : Row} {h : Word} (he : headerError nv p r h = none) :
    admitted p r = true := by
  unfold headerError at he
  split_ifs at he with _ _ _ hadm
  exact hadm

/-- A decoded command is a command of a machine with `nv` voice slots (R100, R105). -/
theorem wellFormed_of_decode {nv : Nat} {p : Port} {ws rest : List Word} {i : Instr}
    (h : decode nv p ws = .command i rest) : i.WellFormed nv := by
  have hops : i.operandsOk = true := operandsOk_of_length (checked_of_decode h).2
  have hslot : i.slotOk nv = true :=
    (Option.all_eq_true _ _).mpr fun v hv => decide_eq_true (voice_lt_of_decode h hv)
  exact Bool.and_eq_true_iff.mpr ⟨hops, hslot⟩

/-- Settles O2: what the decoder has checked of the header and the operand words, and the words put together again. -/
theorem decodedWordsAreTheEncoding : Obligations.DecodedWordsAreTheEncoding :=
  fun _ _ _ _ _ h =>
    ⟨wellFormed_of_decode h, admitted_of_headerError_none (checked_of_decode h).1, eq_encode_of_decode h⟩

/-! ## The command map by unit and function (R103) -/

theorem unitField_eq (h : Word) : unitField h = headerCode h / 16 := by
  simp only [unitField, headerCode, BitVec.extractLsb'_toNat, Nat.shiftRight_eq_div_pow]
  omega

theorem funcField_eq (h : Word) : funcField h = headerCode h % 16 := by
  simp only [funcField, headerCode, BitVec.extractLsb'_toNat, Nat.shiftRight_eq_div_pow]
  omega

/-- The codes that are no row's are the pairs R112 lists. -/
theorem opOfCode_isNone : ∀ c < 256, (opOfCode c).isNone = reservedPair (c / 16) (c % 16) := by decide +kernel

/-- A header names no row exactly when its pair is a listed one (R112). -/
theorem opOfCode_eq_none_iff (h : Word) :
    opOfCode (headerCode h) = none ↔ reservedPair (unitField h) (funcField h) = true := by
  rw [unitField_eq, funcField_eq, ← opOfCode_isNone _ (headerCode_lt h), Option.isNone_iff_eq_none]

/-- The units whose `inst` is zero, those where it holds a voice slot, and the one where an LFO number (R105). -/
theorem row_inst_eq_zero_iff (o : Op) : (row o).inst = .zero ↔ (row o).code / 16 = 0 ∨ (row o).code / 16 = 6 := by
  cases o <;> decide
theorem row_inst_eq_voice_iff (o : Op) : (row o).inst = .voice ↔ 1 ≤ (row o).code / 16 ∧ (row o).code / 16 ≤ 4 := by
  cases o <;> decide
theorem row_inst_eq_lfo_iff (o : Op) : (row o).inst = .lfo ↔ (row o).code / 16 = 5 := by cases o <;> decide

/-- The bound on an `idx` field beyond which must-be-zero bits are set (R106, R113). -/
def fieldBound : IdxKind → Nat
  | .zero => 1
  | .any | .param => 2 ^ 16
  | .slot => nslot
  | .osc => nosc
  | .envSel => 2

/-- The bound by unit and function is the one of what the row's `idx` holds. -/
theorem idxBound_row (o : Op) : idxBound ((row o).code / 16) ((row o).code % 16) = fieldBound (row o).idx := by
  cases o <;> rfl

/-- The rows whose `idx` is an effect parameter id (R106). -/
theorem row_idx_eq_param_iff (o : Op) :
    (row o).idx = .param ↔
      (row o).code / 16 = 6 ∧ ((row o).code % 16 = 1 ∨ (row o).code % 16 = 3 ∨ (row o).code % 16 = 9) := by
  cases o <;> decide

/-- The must-be-zero parts of a row's fields: `inst` where it is to be zero, and `idx` beyond its bound. -/
theorem fieldsReserved_iff {r : Row} {inst idx : Nat} (hidx : idx < 2 ^ 16) :
    fieldsReserved r inst idx = true ↔ (r.inst = .zero ∧ inst ≠ 0) ∨ fieldBound r.idx ≤ idx := by
  rw [fieldsReserved, Bool.or_eq_true]
  refine or_congr ?_ ?_
  · cases r.inst <;> simp
  · cases r.idx <;> simp [fieldBound] <;> omega

theorem instanceBad_iff {nv : Nat} {r : Row} {inst : Nat} :
    instanceBad nv r inst = true ↔ (r.inst = .voice ∧ nv ≤ inst) ∨ (r.inst = .lfo ∧ nlfo ≤ inst) := by
  unfold instanceBad
  cases r.inst <;> simp

theorem paramBad_iff {r : Row} {idx : Nat} : paramBad r idx = true ↔ r.idx = .param ∧ nfx ≤ idx := by
  unfold paramBad
  cases r.idx <;> simp

/-! ## Reserved headers (R112) -/

/-- The `idx` field of a header nothing is wrong with is within its bound (R106). -/
theorem idx_lt_fieldBound {r : Row} {inst idx : Nat} (hfields : fieldsReserved r inst idx = false)
    (hidx : idx < 2 ^ 16) : idx < fieldBound r.idx := by
  rw [← Bool.not_eq_true, fieldsReserved_iff hidx, not_or] at hfields
  exact Nat.lt_of_not_le hfields.2

theorem isSome_map_finOf {n k : Nat} {f : Fin n → Instr} (hk : k < n) : ((finOf n k).map f).isSome = true := by
  simp [finOf, hk]

theorem isSome_bind_finOf {n k : Nat} {g : Fin n → Option Instr} (hk : k < n) (hg : ∀ j, (g j).isSome = true) :
    ((finOf n k).bind g).isSome = true := by
  simp [finOf, hk, hg]

section
variable {nv inst idx : Nat}

theorem lfo_lt_of_instanceBad {r : Row} (hr : r.inst = .lfo) (h : instanceBad nv r inst = false) : inst < nlfo := by
  rw [← Bool.not_eq_true, instanceBad_iff] at h
  exact Nat.lt_of_not_le fun hle => h (.inr ⟨hr, hle⟩)

theorem param_lt_of_paramBad {r : Row} (hr : r.idx = .param) (h : paramBad r idx = false) : idx < nfx := by
  rw [← Bool.not_eq_true, paramBad_iff] at h
  exact Nat.lt_of_not_le fun hle => h ⟨hr, hle⟩

/-- Fields nothing is wrong with and as many operand words as the row says make a command (R105 to R107). -/
theorem build_isSome (o : Op) {ws : List Word} (hinst : inst < 2 ^ 8) (hidx : idx < 2 ^ 16)
    (hfields : fieldsReserved (row o) inst idx = false) (hbad : instanceBad nv (row o) inst = false)
    (hparam : paramBad (row o) idx = false) (hws : ws.length = (row o).operands) :
    (build o inst idx ws).isSome = true := by
  have hbound : idx < fieldBound (row o).idx := idx_lt_fieldBound hfields hidx
  cases o with
  | sysReset | fxReset | fxLatch =>
    obtain rfl := List.eq_nil_of_length_eq_zero hws
    rfl
  | sysPrepare | fxProcess =>
    obtain ⟨_, rfl⟩ := List.length_eq_one_iff.mp hws
    rfl
  | arReset | arProcess | rfbReset | fbReset | fbSetMode =>
    obtain rfl := List.eq_nil_of_length_eq_zero hws
    exact isSome_map_finOf hinst
  | arSetBase | arSetStretch | arSetEntropy | arSetDetune | arSeed | rfbSetBase | rfbProcess | fbSetCutoff | fbSetRes
  | fbProcess =>
    obtain ⟨_, rfl⟩ := List.length_eq_one_iff.mp hws
    exact isSome_map_finOf hinst
  | arUpdate =>
    obtain ⟨_, _, rfl⟩ := List.length_eq_two.mp hws
    exact isSome_map_finOf hinst
  | rfbUpdate =>
    match ws, hws with
    | [_, _, _, _], _ => exact isSome_map_finOf hinst
  | arLoadModel | rfbLoadModel => exact isSome_bind_finOf hinst fun _ => isSome_map_finOf hbound
  | arGetAmp | poReset | rfbGetAmp | envReset | envNoteOn | envNoteOff | envProcess | envGetLevel | envGetState =>
    obtain rfl := List.eq_nil_of_length_eq_zero hws
    exact isSome_bind_finOf hinst fun _ => isSome_map_finOf hbound
  | poSetFreq | poStep | envSetAttack | envSetDecay | envSetSustain | envSetRelease =>
    obtain ⟨_, rfl⟩ := List.length_eq_one_iff.mp hws
    exact isSome_bind_finOf hinst fun _ => isSome_map_finOf hbound
  | lfoReset | lfoSetWave | lfoSetSync | lfoProcess | lfoGetValue | lfoProcessBlock =>
    obtain rfl := List.eq_nil_of_length_eq_zero hws
    exact isSome_map_finOf (lfo_lt_of_instanceBad rfl hbad)
  | lfoSetRate | lfoSetDepth | lfoSetBpm | lfoSetDiv | lfoSeed =>
    obtain ⟨_, rfl⟩ := List.length_eq_one_iff.mp hws
    exact isSome_map_finOf (lfo_lt_of_instanceBad rfl hbad)
  | fxGetParam =>
    obtain rfl := List.eq_nil_of_length_eq_zero hws
    exact isSome_map_finOf (param_lt_of_paramBad rfl hparam)
  | fxSet | fxModAdd =>
    obtain ⟨_, rfl⟩ := List.length_eq_one_iff.mp hws
    exact isSome_map_finOf (param_lt_of_paramBad rfl hparam)

end

/-- A header of a row is never called reserved (R112). -/
theorem headerError_ne_reservedHeader (nv : Nat) (p : Port) (r : Row) (h : Word) :
    headerError nv p r h ≠ some .reservedHeader := by
  unfold headerError
  split_ifs <;> simp

/-- A header nothing is wrong with has no bad parameter id (R114). -/
theorem paramBad_of_headerError_none {nv : Nat} {p : Port} {r : Row} {h : Word} (he : headerError nv p r h = none) :
    paramBad r (headerIdx h) = false := by
  unfold headerError at he
  split_ifs at he with _ _ hparam
  simpa using hparam

/-- The decoder calls a header reserved exactly when it names no row (R112). -/
theorem decode_eq_reservedHeader_iff (nv : Nat) (p : Port) (h : Word) (ws : List Word) :
    decode nv p (h :: ws) = .invalid .reservedHeader ↔ opOfCode (headerCode h) = none := by
  rcases decode_cons nv p h ws with ⟨ho, hd⟩ | ⟨o, ho, ⟨e, he, hd⟩ | ⟨he, ⟨-, hd⟩ | ⟨hlen, hd⟩⟩⟩ <;> rw [hd, ho]
  · simp
  · have hne : e ≠ .reservedHeader := fun heq => headerError_ne_reservedHeader nv p (row o) h (heq ▸ he)
    simpa using hne
  · simp
  · obtain ⟨i, hi⟩ := Option.isSome_iff_exists.mp
      (build_isSome o (headerInst_lt h) (headerIdx_lt h) (fieldsReserved_of_headerError_none he)
        (instanceBad_of_headerError_none he) (paramBad_of_headerError_none he) (List.length_take_of_le hlen))
    simp [hi]

/-- Settles O4: a header is called reserved when it names no row, and the codes of no row are the listed pairs. -/
theorem reservedHeadersAreExactlyTheListedPairs : Obligations.ReservedHeadersAreExactlyTheListedPairs := by
  have hdecode (nv : Nat) (p : Port) (h : Word) (ws : List Word) :
      decode nv p (h :: ws) = .invalid .reservedHeader ↔ reservedPair (unitField h) (funcField h) = true :=
    (decode_eq_reservedHeader_iff nv p h ws).trans (opOfCode_eq_none_iff h)
  refine ⟨hdecode, fun s h ws hchannel hreserved => ?_⟩
  have hhead : s.head s.served = .invalid .reservedHeader := by
    rw [State.head, hchannel]
    exact (hdecode _ _ h ws).mpr hreserved
  exact step_of_invalid hhead

/-! ## Bad fields (R113, R114) -/

section
variable {o : Op} {h : Word} (ho : opOfCode (headerCode h) = some o)
include ho

/-- The two readings of the must-be-zero bits agree (R105, R106, R113). -/
theorem fieldsReserved_row : fieldsReserved (row o) (headerInst h) (headerIdx h) = mustBeZeroBroken h := by
  rw [Bool.eq_iff_iff, fieldsReserved_iff (headerIdx_lt h), row_inst_eq_zero_iff, ← idxBound_row, row_of_opOfCode ho,
    ← unitField_eq, ← funcField_eq]
  simp [mustBeZeroBroken]

/-- The two readings of a slot or LFO that does not exist agree (R105, R114). -/
theorem instanceBad_row (nv : Nat) : instanceBad nv (row o) (headerInst h) = instanceBroken nv h := by
  rw [Bool.eq_iff_iff, instanceBad_iff, row_inst_eq_voice_iff, row_inst_eq_lfo_iff, row_of_opOfCode ho,
    ← unitField_eq]
  simp [instanceBroken]

/-- The two readings of a parameter id that does not exist agree (R106, R114). -/
theorem paramBad_row : paramBad (row o) (headerIdx h) = paramBroken h := by
  rw [Bool.eq_iff_iff, paramBad_iff, row_idx_eq_param_iff, row_of_opOfCode ho, ← unitField_eq, ← funcField_eq]
  simp [paramBroken, or_assoc]

/-- A header with something wrong is refused under that name, whatever follows it. -/
theorem decode_of_headerError {nv : Nat} {p : Port} {e : DecodeError} (he : headerError nv p (row o) h = some e)
    (ws : List Word) : decode nv p (h :: ws) = .invalid e := by
  simp [decode, ho, he]

end

/-- Settles O5: a pair not listed is a row's, whose fields the decoder checks in the order of the clauses. -/
theorem badFieldsAreRefusedByName : Obligations.BadFieldsAreRefusedByName := by
  intro nv p h ws hpair
  have hrow : opOfCode (headerCode h) ≠ none := by simp [opOfCode_eq_none_iff, hpair]
  obtain ⟨o, ho⟩ := Option.ne_none_iff_exists'.mp hrow
  rw [← fieldsReserved_row ho, ← instanceBad_row ho, ← paramBad_row ho]
  refine ⟨fun hfields => ?_, fun hfields hinst => ?_, fun hfields hinst hparam => ?_⟩ <;>
    refine decode_of_headerError ho ?_ ws
  · simp [headerError, hfields]
  · simp [headerError, hfields, hinst]
  · simp [headerError, hfields, hinst, hparam]

/-! ## Commands written out word by word (R101, R103) -/

/-- The words of a command alone decode to it. -/
theorem decode_encode {nv : Nat} {p : Port} {i : Instr} {ws : List Word} (hi : i.WellFormed nv)
    (hp : i.admittedOn p = true) (hws : encode i = ws) : decode nv p ws = .command i [] := by
  rw [← hws, ← List.append_nil (encode i)]
  exact decode_encode_append hi hp []

/-- Settles O6: each list of words is the encoding of its command, and slot 255 is none of 32 slots. -/
theorem writtenWordsDecode : Obligations.WrittenWordsDecode := by
  have hslot := (badFieldsAreRefusedByName 32 .aud 0x40FF0000#32 [] (by decide)).2.1 (by decide) (by decide)
  exact ⟨decode_encode rfl rfl rfl, decode_encode rfl rfl rfl, decode_encode rfl rfl rfl, decode_encode rfl rfl rfl,
    decode_encode rfl rfl rfl, decode_encode rfl rfl rfl, decode_encode rfl rfl rfl, decode_encode rfl rfl rfl,
    hslot, decode_encode rfl rfl rfl⟩

end Sys2Proof.Machine
end

section
/-!
PROOF. The codes of the encoding: the enumerated operands (O17, R110) and the envelope's stages (O28, R109).
-/

namespace Sys2Proof.Machine

open Sys2Proof Config

/-! ## Enumerated operands (R110) -/

/-- A code above a number is none of the codes up to it. -/
theorem ne_ofNat_of_lt_toNat {m : BitVec 16} {n k : Nat} (h : n < m.toNat) (hk : k ≤ n) : m ≠ BitVec.ofNat 16 k := by
  rintro rfl
  rw [BitVec.toNat_ofNat] at h
  exact absurd (Nat.mod_le k (2 ^ 16)) (by omega)

/-- A code above 3 selects LowPass (R258). -/
theorem filterModeOf_of_lt {m : BitVec 16} (h : 3 < m.toNat) : filterModeOf m = .lowPass := by
  have hne : ∀ k ≤ 3, m ≠ BitVec.ofNat 16 k := fun _ => ne_ofNat_of_lt_toNat h
  simp [filterModeOf, hne]

/-- A code above 5 selects Sine (R278). -/
theorem waveOf_of_lt {w : BitVec 16} (h : 5 < w.toNat) : waveOf w = .sine := by
  have hne : ∀ k ≤ 5, w ≠ BitVec.ofNat 16 k := fun _ => ne_ofNat_of_lt_toNat h
  simp [waveOf, hne]

/-- A code above 1 selects free-running (R279). -/
theorem syncOf_of_lt {m : BitVec 16} (h : 1 < m.toNat) : syncOf m = false :=
  decide_eq_false (ne_ofNat_of_lt_toNat h le_rfl)

/-- Settles O17: the codes one by one, and the default for those above the last. -/
theorem enumeratedOperandsFallBackToZero : Obligations.EnumeratedOperandsFallBackToZero :=
  ⟨⟨rfl, rfl, rfl, rfl, fun _ h => filterModeOf_of_lt h⟩,
    ⟨rfl, rfl, rfl, rfl, rfl, rfl, fun _ h => waveOf_of_lt h⟩,
    ⟨rfl, rfl, fun _ h => syncOf_of_lt h⟩⟩

/-! ## Stage codes (R109) -/

/-- Returning a word, field by field (R88). -/
theorem State.pushWord_eq (s : State) (w : Word) :
    s.pushWord w =
      { s with
        qa := if s.port = .aud then s.qa ++ [w] else s.qa
        qc := if s.port = .ctl then s.qc ++ [w] else s.qc } := by
  have happended : s.pushWord w = _ := pushWord_appended s w
  rw [State.pushWord_nanDraws] at happended
  exact happended

/-- Settles O28: the word returned is the stage's code. -/
theorem stageCodesAreReturned : Obligations.StageCodesAreReturned := by
  intro v e s code
  have hcode : stageCode s.env[v][e].st = code := by
    unfold code
    cases s.env[v][e].st <;> rfl
  have hexec : exec (.envGetState v e) s = .next (s.pushWord (stageCode s.env[v][e].st)) := rfl
  rw [hexec, hcode, State.pushWord_eq]

end Sys2Proof.Machine
end

section
/-!
SUPPORT. The oscillators: what AR.PROCESS renders as one sum in index order (R158, R168), and the bounds of one
oscillator (R138), which rest on no rounded sum or product of theirs overflowing.
-/

namespace Sys2Proof.Machine

set_option Elab.async false

open Config
open F hiding neg_neg

/-! ## The loop of AR.PROCESS (R158, R168) -/

/-- A fold over the indices in order that steps a generator beside its accumulator: the generator is advanced once
per index, and index `i` finds it advanced `i` times. -/
theorem foldl_with_generator {ρ α : Type} (next : ρ → ρ) {n : Nat} (f : α → ρ → Fin n → α) (r : ρ) (x : α) :
    (List.finRange n).foldl (fun acc i => (next acc.1, f acc.2 acc.1 i)) (r, x) =
      (next^[n] r, (List.finRange n).foldl (fun acc i => f acc (next^[i.val] r) i) x) := by
  induction n generalizing r x with
  | zero => rfl
  | succ n ih =>
    simp only [List.finRange_succ, List.foldl_cons, List.foldl_map]
    exact ih (fun acc q i => f acc q i.succ) (next r) (f x r 0)

/-- At entropy 0 no draw is made (R158). -/
theorem arWeight_of_no_entropy (P : Params) {a : ArState} (h : F.gt a.entropy F.zero = false) (rng : Word)
    (i : OscIdx) : arWeight P a rng i = (id rng, F.mul a.amp[i] a.norm) := by
  simp [arWeight, h]

/-- With entropy one draw is made, and jitters the weight (R158). -/
theorem arWeight_of_entropy (P : Params) {a : ArState} (h : F.gt a.entropy F.zero = true) (rng : Word) (i : OscIdx) :
    arWeight P a rng i = (P.rngNext rng,
      F.mul (F.mul a.amp[i] a.norm) (F.add F.one (F.mul a.entropy (rngBipolar P (P.rngNext rng))))) := by
  simp [arWeight, h]

/-- The loop of R168, where the weights step the generator by `next`. -/
theorem arRender_eq {P : Params} {a : ArState} {next : Word → Word} {weight : Word → OscIdx → F}
    (h : ∀ rng i, arWeight P a rng i = (next rng, weight rng i)) :
    arRender P a = (next^[nosc] a.rng, (List.finRange nosc).foldl
      (fun acc i => F.add acc (F.mul (poOut P a.osc[i] F.zero) (weight (next^[i.val] a.rng) i))) F.zero) := by
  have hturn : arAccumulate P a = fun acc i =>
      (next acc.1, F.add acc.2 (F.mul (poOut P a.osc[i] F.zero) (weight acc.1 i))) := by
    funext acc i
    simp only [arAccumulate, h]
  rw [arRender, hturn]
  exact foldl_with_generator next
    (fun acc rng i => F.add acc (F.mul (poOut P a.osc[i] F.zero) (weight rng i))) a.rng F.zero

/-- The sample and the generator at entropy 0 (R158, R168). -/
theorem arRender_of_no_entropy (P : Params) {a : ArState} (h : F.gt a.entropy F.zero = false) :
    arRender P a = (a.rng, (List.finRange nosc).foldl
      (fun acc i => F.add acc (F.mul (poOut P a.osc[i] F.zero) (F.mul a.amp[i] a.norm))) F.zero) := by
  rw [arRender_eq (arWeight_of_no_entropy P h), Function.iterate_id, id]

/-- The sample and the generator with entropy: the weight of oscillator `i` is jittered by the draw after the
`i + 1`-th advance (R153, R158, R168). -/
theorem arRender_of_entropy (P : Params) {a : ArState} (h : F.gt a.entropy F.zero = true) :
    arRender P a = (P.rngNext^[nosc] a.rng, (List.finRange nosc).foldl
      (fun acc i => F.add acc (F.mul (poOut P a.osc[i] F.zero) (F.mul (F.mul a.amp[i] a.norm)
        (F.add F.one (F.mul a.entropy (rngBipolar P (P.rngNext^[i.val + 1] a.rng))))))) F.zero) := by
  simp only [arRender_eq (arWeight_of_entropy P h), Function.iterate_succ_apply']

/-- AR.PROCESS advances every oscillator (R134, R168). -/
@[simp] theorem arStep_osc_get (P : Params) (a : ArState) (i : OscIdx) :
    (arStep P a).osc[i] = poAdvance a.osc[i] := by
  simp [arStep]

/-- AR.PROCESS writes the oscillators and the generator, and nothing else of the resonator (R168). -/
theorem arStep_eq (P : Params) (a : ArState) :
    arStep P a = { a with osc := a.osc.map poAdvance, rng := (arRender P a).1 } := by
  have hosc : (Vector.ofFn fun i => poAdvance a.osc[i]) = a.osc.map poAdvance :=
    Vector.ext fun i hi => by simp
  rw [arStep, hosc]

/-! ## One oscillator of a slot (R55) -/

/-- The oscillator written reads as written. -/
@[simp] theorem ArState.setOsc_get_same (a : ArState) (i : OscIdx) (o : OscState) : (a.setOsc i o).osc[i] = o := by
  simp [ArState.setOsc]

/-! ## What does not overflow (R18, R381) -/

/-- No finite value is above `(2^24 - 1) * 2^104` in magnitude. -/
theorem abs_toRat_le (x : F) : |toRat x| ≤ (2 ^ 24 - 1) * 2 ^ 104 := by
  cases x with
  | nan | inf _ => simp only [toRat, abs_zero]; norm_num
  | fin s m =>
    have hmag : magVal m.val ≤ magVal (magInf - 1) := (magVal_le_iff _ _).mpr (Nat.le_sub_one_of_lt m.isLt)
    have htop : magVal (magInf - 1) = (2 ^ 24 - 1) * 2 ^ 253 := by decide
    have hcast : (magVal m.val : ℚ) ≤ (2 ^ 24 - 1) * 2 ^ 253 := by
      rw [htop] at hmag
      have h := (Nat.cast_le (α := ℚ)).mpr hmag
      norm_num at h ⊢
      exact h
    have habs : |toRat (.fin s m)| = (magVal m.val : ℚ) / 2 ^ 149 := by
      cases s <;> simp [toRat, abs_div]
    rw [habs, div_le_iff₀ two149_pos]
    exact hcast.trans (by norm_num)

/-- A result whose exact value is below the threshold of overflow is finite (R18). -/
theorem RoundsTo.isFinite {x : ℚ} {r : F} (h : RoundsTo x r) (hx : |x| < (2 ^ 25 - 1) * 2 ^ 103) :
    r.isFinite = true := by
  cases r with
  | nan => exact h.elim
  | inf s => exact absurd h.1 (not_le.mpr hx)
  | fin s m => rfl

/-- The exact value of a phase is in `[0, 1)`. -/
theorem toRat_of_inPhase {p : F} (h : inPhase p = true) : 0 ≤ toRat p ∧ toRat p < 1 := by
  have hp := inPhase_isFinite h
  simp only [inPhase, Bool.and_eq_true] at h
  obtain ⟨⟨-, hlo⟩, hhi⟩ := h
  rw [le_iff_toRat rfl hp, toRat_zero] at hlo
  rw [lt_iff_toRat hp rfl, toRat_one] at hhi
  exact ⟨hlo, hhi⟩

/-- A phase added to a finite value does not overflow: it is less than half a unit of the largest one. -/
theorem add_inPhase_isFinite {p y : F} (hp : inPhase p = true) (hy : y.isFinite = true) :
    (F.add p y).isFinite = true := by
  obtain ⟨hlo, hhi⟩ := toRat_of_inPhase hp
  refine (add_isRounded (inPhase_isFinite hp) hy).roundsTo.isFinite ?_
  calc |toRat p + toRat y| ≤ |toRat p| + |toRat y| := abs_add_le _ _
    _ ≤ 1 + (2 ^ 24 - 1) * 2 ^ 104 := add_le_add (by rw [abs_of_nonneg hlo]; exact hhi.le) (abs_toRat_le y)
    _ < (2 ^ 25 - 1) * 2 ^ 103 := by norm_num

/-- A finite value scaled by a phase does not overflow. -/
theorem mul_inPhase_isFinite {x p : F} (hx : x.isFinite = true) (hp : inPhase p = true) :
    (F.mul x p).isFinite = true := by
  obtain ⟨hlo, hhi⟩ := toRat_of_inPhase hp
  refine (mul_isRounded hx (inPhase_isFinite hp)).roundsTo.isFinite ?_
  calc |toRat x * toRat p| = |toRat x| * toRat p := by rw [abs_mul, abs_of_nonneg hlo]
    _ ≤ |toRat x| := mul_le_of_le_one_right (abs_nonneg _) hhi.le
    _ ≤ (2 ^ 24 - 1) * 2 ^ 104 := abs_toRat_le x
    _ < (2 ^ 25 - 1) * 2 ^ 103 := by norm_num

/-! ## The bounds of one oscillator (R138) -/

/-- A phase displaced by a finite value and wrapped is a phase (R20, R134). -/
theorem wrap01_add_inPhase {p y : F} (hp : inPhase p = true) (hy : y.isFinite = true) :
    inPhase (F.wrap01 (F.add p y)) = true :=
  wrap01_inPhase (add_inPhase_isFinite hp hy)

/-- The advance keeps a phase a phase, from a finite increment (R138). -/
theorem poAdvance_inPhase {o : OscState} (hp : inPhase o.phase = true) (hinc : o.inc.isFinite = true) :
    inPhase (poAdvance o).phase = true :=
  wrap01_add_inPhase hp hinc

/-- `SIN01` of a phase is in `[-1, 1]` (R21, R132). -/
theorem sin01_unit (P : Params) {p : F} (hp : inPhase p = true) :
    F.le (F.neg F.one) (sin01 P p) = true ∧ F.le (sin01 P p) F.one = true ∧ (sin01 P p).isFinite = true :=
  fsin_unit P _ (mul_inPhase_isFinite (x := twoPi) (by decide) hp)

/-- The sample of an oscillator is in `[-1, 1]`, from a finite modulation (R138). -/
theorem poOut_unit (P : Params) {o : OscState} {pm : F} (hp : inPhase o.phase = true) (hpm : pm.isFinite = true) :
    F.le (F.neg F.one) (poOut P o pm) = true ∧ F.le (poOut P o pm) F.one = true ∧
      (poOut P o pm).isFinite = true :=
  sin01_unit P (wrap01_add_inPhase hp hpm)

/-- A validated control operand is finite, at settings a machine may have (R34, R383). -/
theorem control_isFinite {T : Settings} (hT : SettingsOk T) (c : Control) (w : Word) :
    (control T c w).isFinite = true := by
  have hrow := control_inRange hT c w
  simp only [inRange, inRow, Bool.and_eq_true] at hrow
  obtain ⟨⟨hfin, -⟩, -⟩ := hrow
  exact hfin

/-- The word returned for a value that is not a NaN is that value's pattern (R17, R88). -/
theorem pushReal_results_own (P : Params) (s : State) (x : F) :
    ∃ w : Word, (s.pushReal P x).results s.port = s.results s.port ++ [w] ∧ (x ≠ .nan → F.asF w = x) :=
  ⟨_, by rw [pushReal_results, if_pos rfl], F.asF_bitsOr _ x⟩

end Sys2Proof.Machine
end

section
/-!
PROOF. The oscillator family: AR.PROCESS (O24), the PO commands (O25), and the bounds of an oscillator (O26).
-/

namespace Sys2Proof.Machine

open Sys2Proof Config

set_option Elab.async false

/-! ## The commands as the operations they run (R135 to R137, R168) -/

theorem exec_arProcess (v : Voice) (s : State) : exec (.arProcess v) s =
    .next ((s.setAr v (arStep params s.ar[v])).pushReal params (arRender params s.ar[v]).2) := rfl

theorem exec_poSetFreq (v : Voice) (i : OscIdx) (f : Word) (s : State) : exec (.poSetFreq v i f) s =
    .next (s.setAr v (s.ar[v].setOsc i
      (poAssign s.sys.fs s.ar[v].osc[i] (freqOperand s.settings s.sys.fs f)))) := rfl

theorem exec_poReset (v : Voice) (i : OscIdx) (s : State) : exec (.poReset v i) s =
    .next (s.setAr v (s.ar[v].setOsc i s.ar[v].osc[i].clearPhase)) := rfl

theorem exec_poStep (v : Voice) (i : OscIdx) (pm : Word) (s : State) : exec (.poStep v i pm) s =
    .next ((s.setAr v (s.ar[v].setOsc i (poAdvance s.ar[v].osc[i]))).pushReal params
      (poOut params s.ar[v].osc[i] (control s.settings .phaseMod pm))) := rfl

/-! ## AR.PROCESS (R168) -/

/-- AR.PROCESS from what its loop renders: the oscillators advanced, the generator as the loop leaves it, and the
sample returned. -/
theorem arProcess_returned {v : Voice} {s : State} {rng : Word} {y : F}
    (h : arRender params s.ar[v] = (rng, y)) :
    ∃ t : State, exec (.arProcess v) s = .next t ∧
      Returned (s.setAr v { s.ar[v] with osc := s.ar[v].osc.map poAdvance, rng := rng }) t y := by
  refine ⟨_, exec_arProcess v s, ?_⟩
  rw [arStep_eq, h]
  exact pushReal_returned params _ y

/-- Settles O24: the loop rendered as one sum, by the two cases of the entropy. -/
theorem additiveProcessResult : Obligations.AdditiveProcessResult := by
  intro v s
  exact ⟨fun h => arProcess_returned (arRender_of_no_entropy params h),
    fun h => arProcess_returned (arRender_of_entropy params h)⟩

/-! ## The PO commands (R135 to R137) -/

/-- Settles O25: each command is one oscillator replaced, and PO.STEP returns the sample before the advance. -/
theorem oscillatorCommandsResult : Obligations.OscillatorCommandsResult := by
  intro v i w s
  exact ⟨exec_poSetFreq v i w s, exec_poReset v i s, _, exec_poStep v i w s, pushReal_returned params _ _⟩

/-! ## Bounds (R138) -/

/-- PO.STEP advances its oscillator and returns the sample. -/
theorem poStep_advances (v : Voice) (i : OscIdx) (w : Word) (s : State) :
    ∃ (t : State) (y : Word), exec (.poStep v i w) s = .next t ∧
      t.results s.port = s.results s.port ++ [y] ∧
      (poOut params s.ar[v].osc[i] (control s.settings .phaseMod w) ≠ .nan →
        F.asF y = poOut params s.ar[v].osc[i] (control s.settings .phaseMod w)) ∧
      t.ar[v].osc[i] = poAdvance s.ar[v].osc[i] := by
  obtain ⟨y, hy, hval⟩ := pushReal_results_own params (s.setAr v (s.ar[v].setOsc i (poAdvance s.ar[v].osc[i])))
    (poOut params s.ar[v].osc[i] (control s.settings .phaseMod w))
  refine ⟨_, y, exec_poStep v i w s, hy, hval, ?_⟩
  rw [State.pushReal_ar, State.setAr_get, if_pos rfl, ArState.setOsc_get_same]

/-- AR.PROCESS advances every oscillator of its slot. -/
theorem arProcess_advances (v : Voice) (s : State) :
    ∃ t : State, exec (.arProcess v) s = .next t ∧ ∀ i : OscIdx, t.ar[v].osc[i] = poAdvance s.ar[v].osc[i] := by
  refine ⟨_, exec_arProcess v s, fun i => ?_⟩
  rw [State.pushReal_ar, State.setAr_get, if_pos rfl, arStep_osc_get]

/-- Settles O26: the advance keeps a phase a phase, and the sine of a displaced phase is in `[-1, 1]`. -/
theorem oscillatorsStayInBounds : Obligations.OscillatorsStayInBounds := by
  refine ⟨fun v i w s hphase hinc => ?_, fun v s => ?_⟩
  · obtain ⟨t, y, hexec, hres, hval, hosc⟩ := poStep_advances v i w s
    refine ⟨t, y, hexec, hres, fun hT => ?_, ?_, ?_⟩
    · obtain ⟨hlo, hhi, -⟩ := poOut_unit params hphase (control_isFinite hT .phaseMod w)
      rw [hval (F.ne_nan_of_le hhi).1]
      exact ⟨hlo, hhi⟩
    · rw [hosc]
      exact poAdvance_inPhase hphase hinc
    · rw [hosc, poAdvance_inc]
  · obtain ⟨t, hexec, hosc⟩ := arProcess_advances v s
    refine ⟨t, hexec, fun i hphase hinc => ?_⟩
    rw [hosc, poAdvance_inc]
    exact ⟨poAdvance_inPhase hphase hinc, rfl⟩

end Sys2Proof.Machine
end

section
/-!
SUPPORT. The additive resonator's commands that return nothing, and AR.UPDATE half by half of the index range: what
it makes of each oscillator and of the sum it normalises by (R154 to R157, R167).
-/

namespace Sys2Proof.Machine

open Sys2Proof Config

/-! ## Commands that return nothing -/

/-- A command that returns nothing writes its effect to its unit and does nothing else (R55, R88). -/
theorem exec_eq_setUnit {i : Instr} {u : UnitRef} (hu : unitOf i = some u) (hi : i.operandsOk = true) {s : State}
    {c : u.Content} (h : u.effect s.settings s.sys.fs i (s.unit u) = (c, .nothing)) :
    exec i s = .next (s.setUnit u c) := by
  rw [exec_eq_runUnit hu hi, State.runUnit, h]
  rfl

/-- The same for a command addressed to a resonator. -/
theorem exec_eq_setAr {i : Instr} {v : Voice} (hu : unitOf i = some (.ar v)) (hi : i.operandsOk = true) {s : State}
    {a : ArState} (h : arEffect s.settings s.sys.fs i s.ar[v] = (a, .nothing)) :
    exec i s = .next (s.setAr v a) :=
  exec_eq_setUnit hu hi h

/-- AR.RESET writes the phases and nothing else of the resonator (R160). -/
theorem ArState.clearPhases_eq (a : ArState) :
    a.clearPhases = { a with osc := a.osc.map fun o => { o with phase := F.zero } } := by
  have hosc : (Vector.ofFn fun i => a.osc[i].clearPhase) = a.osc.map fun o => { o with phase := F.zero } :=
    Vector.ext fun i hi => by simp [OscState.clearPhase]
  rw [ArState.clearPhases, hosc]

/-! ## The two halves of the oscillators (R27) -/

@[simp] theorem isPrimary_primaryOf (k : Fin np) : isPrimary (primaryOf k) = true :=
  (isPrimary_eq_true _).mpr k.isLt

@[simp] theorem isPrimary_twinOf (k : Fin np) : isPrimary (twinOf k) = false :=
  decide_eq_false (Nat.not_lt.mpr (Nat.le_add_left np k.val))

@[simp] theorem partialOf_primaryOf (k : Fin np) : partialOf (primaryOf k) = k :=
  Fin.ext (Nat.mod_eq_of_lt k.isLt)

@[simp] theorem partialOf_twinOf (k : Fin np) : partialOf (twinOf k) = k :=
  Fin.ext ((Nat.add_mod_right k.val np).trans (Nat.mod_eq_of_lt k.isLt))

/-- A fold in index order runs over the primaries, then over the twins. -/
theorem foldl_primaries_twins {α : Type} (f : α → Fin nosc → α) (x : α) :
    (List.finRange nosc).foldl f x =
      (List.finRange np).foldl (fun acc k => f acc (twinOf k))
        ((List.finRange np).foldl (fun acc k => f acc (primaryOf k)) x) := by
  have htwin (k : Fin np) : twinOf k = Fin.natAdd np k := Fin.ext (Nat.add_comm k.val np)
  simp only [← Fin.foldl_eq_foldl_finRange, htwin]
  exact Fin.foldl_add (n := np) (m := np) f x

/-! ## The guards of R155 and R156 -/

/-- A frequency and an amplitude behind a guard. -/
def guarded (muted : Bool) (f amp : F) : Option (F × F) := if muted then none else some (f, amp)

/-- Behind two guards: what passes neither raised. -/
theorem guarded_or (b c : Bool) (f amp : F) :
    guarded (b || c) f amp = if !b && !c then some (f, amp) else none := by
  cases b <;> cases c <;> rfl

/-- Partial `k` is muted (R155). -/
def arMuted (P : Params) (fs : F) (a : ArState) (mx my : F) (k : Fin np) : Bool :=
  F.gt (arFreq P a k mx my) (arLimit fs)

/-- The twin of partial `k` is muted: with its partial, at detune 0, or by its own frequency (R156). -/
def arTwinMuted (P : Params) (fs : F) (a : ArState) (mx my : F) (k : Fin np) : Bool :=
  arMuted P fs a mx my k || F.feq a.detune F.zero || F.gt (arTwinFreq a (arFreq P a k mx my)) (arLimit fs)

section
variable (P : Params) (fs : F) (a : ArState) (mx my : F)

/-- The guard of R155. -/
theorem arPrimary_eq_guarded (k : Fin np) : arPrimary P fs a k mx my =
    guarded (arMuted P fs a mx my k) (arFreq P a k mx my) (morph a.model (·.amp) k mx my) := rfl

/-- The guards of R156: a muted partial has no twin, and else detune and the twin's frequency decide. -/
theorem arTwin_eq_guarded (k : Fin np) : arTwin P fs a k mx my =
    guarded (arTwinMuted P fs a mx my k) (arTwinFreq a (arFreq P a k mx my))
      (F.mul kUni (morph a.model (·.amp) k mx my)) := by
  rw [arTwin, arPrimary_eq_guarded, arTwinMuted]
  cases arMuted P fs a mx my k with
  | true => rfl
  | false => exact (guarded_or ..).symm

theorem arVoicing_primaryOf (k : Fin np) : arVoicing P fs a mx my (primaryOf k) =
    guarded (arMuted P fs a mx my k) (arFreq P a k mx my) (morph a.model (·.amp) k mx my) := by
  rw [arVoicing, isPrimary_primaryOf, partialOf_primaryOf, if_pos rfl, arPrimary_eq_guarded]

theorem arVoicing_twinOf (k : Fin np) : arVoicing P fs a mx my (twinOf k) =
    guarded (arTwinMuted P fs a mx my k) (arTwinFreq a (arFreq P a k mx my))
      (F.mul kUni (morph a.model (·.amp) k mx my)) := by
  rw [arVoicing, isPrimary_twinOf, partialOf_twinOf, if_neg Bool.false_ne_true, arTwin_eq_guarded]

end

/-! ## What is written from a voicing (R157, R167) -/

section
variable {parts : Vector (Option (F × F)) nosc} {muted : Bool} {f amp : F}

/-- An oscillator keeps its phase, and its increment is that of the frequency it is given (R133). -/
theorem arApply_osc_get (fs : F) (a : ArState) (i : OscIdx) :
    (arApply fs a parts).osc[i].phase = a.osc[i].phase ∧
      (arApply fs a parts).osc[i].inc = F.div (arApply fs a parts).osc[i].freq fs := by
  simp [arApply]

/-- Frequency and amplitude from a guarded entry: zeros where it is muted (R155, R156). -/
theorem arApply_get_of_guarded (fs : F) (a : ArState) {i : OscIdx} (h : parts[i] = guarded muted f amp) :
    (arApply fs a parts).osc[i].freq = (if muted then F.zero else f) ∧
      (arApply fs a parts).amp[i] = (if muted then F.zero else amp) := by
  have h' : parts[i.val] = guarded muted f amp := h
  cases muted <;> simp [arApply, h', guarded]

theorem arApply_norm (fs : F) (a : ArState) : (arApply fs a parts).norm = arNorm (arSum parts) := by
  simp only [arApply]

/-- One turn of the sum of R157. -/
def addPart (acc : F) : Option (F × F) → F
  | some (_, amp) => F.add acc amp
  | none => acc

theorem arSum_eq_foldl_addPart :
    arSum parts = (List.finRange nosc).foldl (fun acc i => addPart acc parts[i]) F.zero := rfl

theorem addPart_guarded (acc : F) : addPart acc (guarded muted f amp) = if muted then acc else F.add acc amp := by
  cases muted <;> rfl

/-- The sum of R157 over guarded entries: primaries, then twins, the muted ones left out. -/
theorem arSum_of_guarded {muted twinMuted : Fin np → Bool} {f amp twinF twinAmp : Fin np → F}
    (hprimary : ∀ k, parts[primaryOf k] = guarded (muted k) (f k) (amp k))
    (htwin : ∀ k, parts[twinOf k] = guarded (twinMuted k) (twinF k) (twinAmp k)) :
    arSum parts = (List.finRange np).foldl (fun acc k => if twinMuted k then acc else F.add acc (twinAmp k))
      ((List.finRange np).foldl (fun acc k => if muted k then acc else F.add acc (amp k)) F.zero) := by
  rw [arSum_eq_foldl_addPart, foldl_primaries_twins]
  simp only [hprimary, htwin, addPart_guarded]

end

/-! ## AR.UPDATE (R167) -/

section
variable (P : Params) (fs : F) (a : ArState) (mx my : F)

/-- AR.UPDATE keeps the parameters of the resonator and clears its flag. -/
theorem arUpdate_registers : (arUpdate P fs a mx my).base = a.base ∧ (arUpdate P fs a mx my).stretch = a.stretch ∧
    (arUpdate P fs a mx my).entropy = a.entropy ∧ (arUpdate P fs a mx my).detune = a.detune ∧
    (arUpdate P fs a mx my).dirty = false := by
  simp only [arUpdate, arApply, and_self]

/-- AR.UPDATE keeps every phase and derives the increment from the frequency (R133, R167). -/
theorem arUpdate_osc_get (i : OscIdx) :
    (arUpdate P fs a mx my).osc[i].phase = a.osc[i].phase ∧
      (arUpdate P fs a mx my).osc[i].inc = F.div (arUpdate P fs a mx my).osc[i].freq fs :=
  arApply_osc_get fs a i

/-- Oscillator `k` plays partial `k` (R154, R155). -/
theorem arUpdate_primaryOf (k : Fin np) :
    (arUpdate P fs a mx my).osc[primaryOf k].freq =
        (if arMuted P fs a mx my k then F.zero else arFreq P a k mx my) ∧
      (arUpdate P fs a mx my).amp[primaryOf k] =
        (if arMuted P fs a mx my k then F.zero else morph a.model (·.amp) k mx my) :=
  arApply_get_of_guarded fs a ((Vector.getElem_ofFn _).trans (arVoicing_primaryOf P fs a mx my k))

/-- Oscillator `k + 64` plays the twin of partial `k` (R156). -/
theorem arUpdate_twinOf (k : Fin np) :
    (arUpdate P fs a mx my).osc[twinOf k].freq =
        (if arTwinMuted P fs a mx my k then F.zero else arTwinFreq a (arFreq P a k mx my)) ∧
      (arUpdate P fs a mx my).amp[twinOf k] =
        (if arTwinMuted P fs a mx my k then F.zero else F.mul kUni (morph a.model (·.amp) k mx my)) :=
  arApply_get_of_guarded fs a ((Vector.getElem_ofFn _).trans (arVoicing_twinOf P fs a mx my k))

/-- The normalisation is that of the unmuted amplitudes in index order (R157). -/
theorem arUpdate_norm : (arUpdate P fs a mx my).norm = arNorm
    ((List.finRange np).foldl (fun acc k => if arTwinMuted P fs a mx my k then acc
        else F.add acc (F.mul kUni (morph a.model (·.amp) k mx my)))
      ((List.finRange np).foldl (fun acc k => if arMuted P fs a mx my k then acc
        else F.add acc (morph a.model (·.amp) k mx my)) F.zero)) := by
  rw [arUpdate, arApply_norm, arSum_of_guarded
    (fun k => (Vector.getElem_ofFn _).trans (arVoicing_primaryOf P fs a mx my k))
    (fun k => (Vector.getElem_ofFn _).trans (arVoicing_twinOf P fs a mx my k))]

end

end Sys2Proof.Machine
end

section
/-!
PROOF. The additive resonator family: AR.UPDATE (O23), AR.RESET and the setters (O21), and the two LOAD_MODEL
commands (O22).
-/

namespace Sys2Proof.Machine

open Sys2Proof Config

theorem exec_arUpdate (v : Voice) (mx my : Word) (s : State) : exec (.arUpdate v mx my) s =
    .next (s.setAr v (arUpdate params s.sys.fs s.ar[v] (control s.settings .morph mx)
      (control s.settings .morph my))) :=
  exec_eq_setAr rfl rfl rfl

/-- Settles O23: the frame, then each half of the oscillators, then the normalisation. -/
theorem additiveUpdateResult : Obligations.AdditiveUpdateResult := by
  intro v wx wy s a mx my
  obtain ⟨hbase, hstretch, hentropy, hdetune, hdirty⟩ := arUpdate_registers params s.sys.fs a mx my
  refine ⟨arUpdate params s.sys.fs a mx my, exec_arUpdate v wx wy s, arUpdate_model .., hbase, hstretch, hentropy,
    hdetune, arUpdate_rng .., hdirty, arUpdate_osc_get params s.sys.fs a mx my, fun k => ?_,
    arUpdate_norm params s.sys.fs a mx my⟩
  obtain ⟨hfreq, hamp⟩ := arUpdate_primaryOf params s.sys.fs a mx my k
  obtain ⟨htwinFreq, htwinAmp⟩ := arUpdate_twinOf params s.sys.fs a mx my k
  exact ⟨hfreq, hamp, htwinFreq, htwinAmp⟩

/-- Settles O21: each command is one write to the slot's resonator, AR.RESET's of the phases. -/
theorem additiveSettersResult : Obligations.AdditiveSettersResult := by
  intro v w s
  exact ⟨exec_eq_setAr rfl rfl (congrArg (·, Answer.nothing) (ArState.clearPhases_eq _)),
    exec_eq_setAr rfl rfl rfl, exec_eq_setAr rfl rfl rfl, exec_eq_setAr rfl rfl rfl, exec_eq_setAr rfl rfl rfl,
    exec_eq_setAr rfl rfl rfl⟩

/-- A LOAD_MODEL term with another number of operands is refused (assumption 16). -/
theorem loadModel_refused (v : Voice) (k : SlotIdx) {ops : List Word} (s : State) (h : ops.length ≠ 128) :
    exec (.arLoadModel v k ops) s = .refused .operandCount ∧
      exec (.rfbLoadModel v k ops) s = .refused .operandCount :=
  ⟨if_neg h, if_neg h⟩

/-- Settles O22: with its 128 operands each command writes one model of its unit's store. -/
theorem loadModelWritesOneWholeModel : Obligations.LoadModelWritesOneWholeModel := by
  intro v k ops s m
  refine ⟨fun hlen => ?_, loadModel_refused v k s⟩
  have har : (Instr.arLoadModel v k ops).operandsOk = true := beq_iff_eq.mpr hlen
  have hrfb : (Instr.rfbLoadModel v k ops).operandsOk = true := beq_iff_eq.mpr hlen
  exact ⟨exec_eq_setAr rfl har rfl, exec_eq_setUnit (u := .rfb v) rfl hrfb rfl⟩

end Sys2Proof.Machine
end

section
/-!
SUPPORT. The resonator filter bank's commands on one bank: what each writes as an update of the bank, and RFB.UPDATE
half by half of the filters (R195 to R203).
-/

namespace Sys2Proof.Machine

open Sys2Proof Config

/-! ## RFB.RESET and RFB.PROCESS (R197, R200, R206) -/

/-- Each element computed from its own old value: a map. -/
theorem ofFn_getElem_eq_map {α β : Type} {n : Nat} (f : α → β) (xs : Vector α n) :
    (Vector.ofFn fun i => f xs[i]) = xs.map f :=
  Vector.ext fun i hi => by simp

/-- RFB.RESET writes the memories and nothing else of the bank (R200). -/
theorem RfbState.clear_eq (b : RfbState) : b.clear = { b with filt := b.filt.map FiltState.clear } := by
  rw [RfbState.clear, ofFn_getElem_eq_map]

/-- RFB.PROCESS advances the filters and writes nothing else of the bank (R206). -/
theorem rfbStep_eq (b : RfbState) (x : F) :
    rfbStep b x = { b with filt := b.filt.map fun f => filtAdvance f x } := by
  rw [rfbStep, ofFn_getElem_eq_map (filtAdvance · x)]

/-! ## RFB.UPDATE (R195, R196, R203) -/

section
variable (P : Params) (fs : F) {b : RfbState} {mx my res det : F}

/-- The early return (R196). -/
theorem rfbUpdate_of_clean (h : rfbClean b mx my res det = true) : rfbUpdate P fs b mx my res det = b :=
  if_pos h

/-- The recomputation, where the flag is set or an operand is new (R203). -/
theorem rfbUpdate_of_not_clean (h : rfbClean b mx my res det = false) :
    rfbUpdate P fs b mx my res det = rfbRecompute P fs b mx my res det :=
  if_neg (Bool.eq_false_iff.mp h)

variable (b mx my res det)

/-- A recomputation keeps the model and the base, caches the operands and clears the flag (R203). -/
theorem rfbRecompute_registers :
    (rfbRecompute P fs b mx my res det).model = b.model ∧ (rfbRecompute P fs b mx my res det).base = b.base ∧
    (rfbRecompute P fs b mx my res det).lastMx = mx ∧ (rfbRecompute P fs b mx my res det).lastMy = my ∧
    (rfbRecompute P fs b mx my res det).lastRes = res ∧ (rfbRecompute P fs b mx my res det).lastDet = det ∧
    (rfbRecompute P fs b mx my res det).dirty = false := by
  simp only [rfbRecompute, and_self]

/-- Filter `k` is tuned to partial `k` (R195). -/
theorem rfbRecompute_primaryOf (k : Fin np) : (rfbRecompute P fs b mx my res det).filt[primaryOf k] =
    rfbSetFilter P fs b.filt[primaryOf k] (rfbFreq b k mx my) (morph b.model (·.amp) k mx my) res := by
  rw [rfbRecompute_get, rfbTarget, isPrimary_primaryOf, partialOf_primaryOf, if_pos rfl]

/-- Filter `k + 64` is tuned to the twin of partial `k`, which detune 0 zeroes (R195). -/
theorem rfbRecompute_twinOf (k : Fin np) : (rfbRecompute P fs b mx my res det).filt[twinOf k] =
    if F.fne det F.zero then
      rfbSetFilter P fs b.filt[twinOf k] (F.mul (rfbFreq b k mx my) (F.add F.one det))
        (F.mul kUni (morph b.model (·.amp) k mx my)) res
    else rfbSetFilter P fs b.filt[twinOf k] F.zero F.zero res := by
  rw [rfbRecompute_get, rfbTarget, isPrimary_twinOf, partialOf_twinOf, if_neg Bool.false_ne_true]
  split_ifs <;> rfl

end

/-! ## Exact values -/

/-- The exact value of a positive pattern, counted in quanta of `2^-149`. -/
theorem toRat_of_pattern {x : F} {q : ℚ} (m : Fin magInf) (hx : x = .fin false m)
    (hq : (F.magVal m.val : ℚ) = q * 2 ^ 149) : toRat x = q := by
  rw [hx, toRat_pos, hq, mul_div_cancel_right₀ _ (by positivity)]

end Sys2Proof.Machine
end

section
/-!
PROOF. The resonator filter bank family: RFB.UPDATE (O31), RFB.PROCESS (O32), RFB.RESET and RFB.SET_BASE (O29), and
the quality factors of this bank and of the filter block (O30).
-/

namespace Sys2Proof.Machine

open Sys2Proof Config

/-- A command addressed to a filter bank that returns nothing writes its effect and does nothing else. -/
theorem exec_eq_setRfb {i : Instr} {v : Voice} (hu : unitOf i = some (.rfb v)) (hi : i.operandsOk = true) {s : State}
    {b : RfbState} (h : rfbEffect s.settings s.sys.fs i s.rfb[v] = (b, .nothing)) :
    exec i s = .next (s.setRfb v b) :=
  exec_eq_setUnit hu hi h

/-- RFB.UPDATE runs on the four validated operands (R203). -/
theorem exec_rfbUpdate {v : Voice} {mx my res det : Word} {s : State} {b : RfbState}
    (h : rfbUpdate params s.sys.fs s.rfb[v] (control s.settings .morph mx) (control s.settings .morph my)
      (control s.settings .resonance res) (control s.settings .rfbDetune det) = b) :
    exec (.rfbUpdate v mx my res det) s = .next (s.setRfb v b) :=
  exec_eq_setRfb rfl rfl (congrArg (·, Answer.nothing) h)

/-- Settles O31: a clean bank is written back as it is; of another one, the registers, then each half of the
filters. -/
theorem resonatorUpdateResult : Obligations.ResonatorUpdateResult := by
  intro v wx wy wr wd s b fs mx my res det same tune mix entry blend fr am
  refine ⟨fun hsame => ?_, fun hsame => ?_⟩
  · rw [exec_rfbUpdate (rfbUpdate_of_clean params fs hsame)]
    exact congrArg _ (s.setUnit_unit (.rfb v))
  · obtain ⟨hmodel, hbase, hmx, hmy, hres, hdet, hdirty⟩ := rfbRecompute_registers params fs b mx my res det
    exact ⟨_, exec_rfbUpdate (rfbUpdate_of_not_clean params fs hsame), hmodel, hbase, hmx, hmy, hres, hdet, hdirty,
      fun k => ⟨rfbRecompute_primaryOf params fs b mx my res det k, rfbRecompute_twinOf params fs b mx my res det k⟩⟩

theorem exec_rfbProcess (v : Voice) (x : Word) (s : State) : exec (.rfbProcess v x) s =
    .next ((s.setRfb v (rfbStep s.rfb[v] (signal x))).pushReal params (rfbOut s.rfb[v] (signal x))) := rfl

/-- Settles O32: the bank advanced by a map over its filters, and the sum of the lanes returned. -/
theorem resonatorProcessResult : Obligations.ResonatorProcessResult := by
  intro v w s b x out lane
  refine ⟨_, exec_rfbProcess v w s, ?_⟩
  rw [rfbStep_eq]
  exact pushReal_returned params _ _

/-- Settles O29: each command is one write to the slot's bank, RFB.RESET's of the memories. -/
theorem resonatorSettersResult : Obligations.ResonatorSettersResult := by
  intro v w s
  exact ⟨exec_eq_setRfb rfl rfl (congrArg (·, Answer.nothing) (RfbState.clear_eq _)), exec_eq_setRfb rfl rfl rfl⟩

/-- Settles O30: the formulas are the definitions, and each printed value is that of the pattern computed. -/
theorem qualityFactorsAreQuadratic : Obligations.QualityFactorsAreQuadratic :=
  ⟨fun _ => rfl,
    toRat_of_pattern 0x3F800000 (by decide) (by norm_num [F.magVal]),
    toRat_of_pattern 0x424B0000 (by decide) (by norm_num [F.magVal]),
    toRat_of_pattern 0x43480000 (by decide) (by norm_num [F.magVal]),
    fun _ => rfl,
    toRat_of_pattern 0x3F000000 (by decide) (by norm_num [F.magVal]),
    toRat_of_pattern 0x3FB40000 (by decide) (by norm_num [F.magVal]),
    toRat_of_pattern 0x40840000 (by decide) (by norm_num [F.magVal]),
    toRat_of_pattern 0x41700000 (by decide) (by norm_num [F.magVal])⟩

end Sys2Proof.Machine
end

section
/-!
SUPPORT. One segment of the envelope in rounded arithmetic: a multiplier times a rounded difference never exceeds the
exact difference, so `target + multiplier * (level - target)` lies between the level and the target (R224, R234).
-/

namespace Sys2Proof.F

/-! ## A magnitude times a multiplier -/

/-- Equal quotients round alike. -/
theorem roundMag_mul_right (n : Nat) {d : Nat} (hd : 0 < d) : roundMag (n * d) d = roundMag n 1 :=
  Nat.le_antisymm (roundMag_mono hd one_pos (Nat.mul_one _).le) (roundMag_mono one_pos hd (Nat.mul_one _).ge)

/-- Equal quotients round alike, with their sign. -/
theorem round_mul_right (s : Bool) (n : Nat) {d : Nat} (hd : 0 < d) : round s (n * d) d = round s n 1 := by
  simp only [round, roundMag_mul_right n hd]

/-- A magnitude that fits the mantissa is representable. -/
theorem magVal_of_le {n : Nat} (h : n ≤ 2 ^ 24) : magVal n = n := by
  simpa using magVal_mantissa 0 n h (.inl rfl)

/-- From `2^23` quanta on, the magnitude below a magnitude is less than `2^-23` of it away. -/
theorem magVal_pred_gap {k : Nat} (h : 2 ^ 23 < k) : 2 ^ 24 * magVal k < 2 ^ 24 * magVal (k - 1) + 2 * magVal k := by
  obtain ⟨sh, t, hlo, hhi, rfl⟩ : ∃ sh t, 2 ^ 23 < t ∧ t ≤ 2 ^ 24 ∧ k = sh * 2 ^ 23 + t :=
    ⟨(k - 1) / 2 ^ 23 - 1, (k - 1) % 2 ^ 23 + 2 ^ 23 + 1, by omega, by omega, by omega⟩
  rw [Nat.add_sub_assoc (by omega), magVal_mantissa sh t hhi (.inr hlo.le),
    magVal_mantissa sh (t - 1) (by omega) (.inr (by omega))]
  have hpow : 0 < 2 ^ sh := by positivity
  calc 2 ^ 24 * (t * 2 ^ sh) = 2 ^ 24 * t * 2 ^ sh := by ring
    _ < (2 ^ 24 * (t - 1) + 2 * t) * 2 ^ sh := Nat.mul_lt_mul_of_pos_right (by omega) hpow
    _ = 2 ^ 24 * ((t - 1) * 2 ^ sh) + 2 * (t * 2 ^ sh) := by ring

/-- The magnitudes below that of 1.0 are at most `1 - 2^-24`. -/
theorem magVal_lt_one {j : Nat} (h : j < 0x3F800000) : magVal j * 2 ^ 24 ≤ (2 ^ 24 - 1) * 2 ^ 149 := by
  have hle : magVal j ≤ magVal 0x3F7FFFFF := (magVal_le_iff _ _).mpr (by omega)
  have htop : magVal 0x3F7FFFFF = (2 ^ 24 - 1) * 2 ^ 125 := by decide
  omega

/-- A magnitude times one below 1.0 does not round above it. -/
theorem roundMag_scaled_le {j : Nat} (hj : j < 0x3F800000) (k : Nat) :
    roundMag (magVal j * magVal k) (2 ^ 149) ≤ k := by
  refine roundMag_le k (by positivity) ?_
  rw [Nat.mul_comm]
  exact Nat.mul_le_mul_left _ (by have := magVal_lt_one hj; omega)

/-- From `2^23` quanta on it rounds strictly below: the product is nearer to the magnitude below. -/
theorem roundMag_scaled_lt {j k : Nat} (hj : j < 0x3F800000) (hk : 2 ^ 23 < k) :
    roundMag (magVal j * magVal k) (2 ^ 149) < k := by
  have hgap := magVal_pred_gap hk
  have hscale : 2 ^ 24 * (magVal j * magVal k) ≤ (2 ^ 24 - 1) * magVal k * 2 ^ 149 := by
    calc 2 ^ 24 * (magVal j * magVal k) = magVal j * 2 ^ 24 * magVal k := by ring
      _ ≤ (2 ^ 24 - 1) * 2 ^ 149 * magVal k := Nat.mul_le_mul_right _ (magVal_lt_one hj)
      _ = (2 ^ 24 - 1) * magVal k * 2 ^ 149 := by ring
  have hpos : magVal 0 < magVal k := (magVal_lt_iff _ _).mpr (by omega)
  have hle := roundMag_scaled_le hj k
  by_contra hge
  obtain ⟨lo, hlo, -, ⟨hr, -, -⟩ | ⟨hr, hmid, -⟩⟩ := roundMag_bracket (magVal j * magVal k) (2 ^ 149) (by positivity)
  · obtain rfl : lo = k := by omega
    omega
  · obtain rfl : lo = k - 1 := by omega
    rw [Nat.sub_add_cancel (by omega)] at hmid
    omega

/-- A whole number of quanta, rounded and scaled by less than 1.0, does not exceed itself: a small one is not rounded,
and a great one rounds up by less than the scaling takes off. -/
theorem magVal_roundMag_scaled_le {j : Nat} (hj : j < 0x3F800000) (n : Nat) :
    magVal (roundMag (magVal j * magVal (roundMag n 1)) (2 ^ 149)) ≤ n := by
  rcases Nat.lt_or_ge n (2 ^ 24) with hn | hn
  · have hexact : roundMag n 1 = n := by rw [← magVal_of_le hn.le, roundMag_magVal, magVal_of_le hn.le]
    rw [hexact]
    calc magVal (roundMag (magVal j * magVal n) (2 ^ 149)) ≤ magVal n :=
          (magVal_le_iff _ _).mpr (roundMag_scaled_le hj n)
      _ = n := magVal_of_le hn.le
  · have hk : 2 ^ 24 ≤ roundMag n 1 := le_roundMag _ one_pos (by rwa [magVal_of_le le_rfl, Nat.mul_one])
    by_contra hgt
    have hback : roundMag n 1 ≤ roundMag (magVal j * magVal (roundMag n 1)) (2 ^ 149) :=
      roundMag_le _ one_pos (by omega)
    exact absurd (roundMag_scaled_lt hj (by omega)) (Nat.not_lt.mpr hback)

end Sys2Proof.F

namespace Sys2Proof.Machine

open F hiding neg_neg

/-! ## A multiplier times a rounded difference -/

/-- Every finite value is a whole number of quanta of `2^-149` (R17). -/
theorem toRat_eq_quanta (x : F) : ∃ z : ℤ, toRat x = z / 2 ^ 149 := by
  cases x with
  | nan | inf _ => exact ⟨0, by simp [toRat]⟩
  | fin s m => exact ⟨(if s then -1 else 1) * magVal m.val, by simp [toRat]⟩

/-- A difference of finite values is a whole number of quanta, rounded once. -/
theorem sub_eq_round {a b : F} (ha : a.isFinite = true) (hb : b.isFinite = true) :
    ∃ (s : Bool) (n : Nat), F.sub a b = F.round s n 1 ∧
      toRat a - toRat b = (if s then -1 else 1) * (n : ℚ) / 2 ^ 149 := by
  obtain ⟨s, n, d, hd, hround, hval⟩ := sub_isRounded ha hb
  obtain ⟨y, hy⟩ := toRat_eq_quanta a
  obtain ⟨z, hz⟩ := toRat_eq_quanta b
  have hdq : (0 : ℚ) < d := by exact_mod_cast hd
  -- the exact quotient is the distance of two whole numbers
  have hquot : (n : ℚ) / d = ((y - z).natAbs : ℕ) := by
    have hdiff : (y - z : ℚ) = (if s then -1 else 1) * (n / d) := by
      rw [hy, hz, ← sub_div, div_left_inj' two149_pos.ne', mul_div_assoc] at hval
      exact hval
    have habs := congrArg abs hdiff
    rw [abs_mul, abs_of_nonneg (div_nonneg n.cast_nonneg hdq.le)] at habs
    rw [Nat.cast_natAbs, Int.cast_abs, Int.cast_sub, habs]
    cases s <;> simp
  have hn : n = (y - z).natAbs * d := by
    have := (div_eq_iff hdq.ne').mp hquot
    exact_mod_cast this
  exact ⟨s, _, by rw [hround, hn, round_mul_right s _ hd], by rw [hval, mul_div_assoc _ (n : ℚ), hquot]⟩

/-- A multiplier is a magnitude below that of 1.0, and has its sign set only at zero. -/
theorem inMultiplier_cases {m : F} (h : inMultiplier m = true) :
    ∃ (s : Bool) (j : Fin magInf), m = .fin s j ∧ j.val < 0x3F800000 ∧ (s = true → j = 0) := by
  have hone : F.one = .fin false ⟨0x3F800000, by decide⟩ := by decide
  cases m with
  | nan => simp [inMultiplier] at h
  | inf s => cases s <;> exact absurd h (by decide)
  | fin s j =>
    simp only [inMultiplier, hone, F.le, F.lt, F.key, F.zero, Bool.and_eq_true, decide_eq_true_eq] at h
    cases s with
    | false => exact ⟨false, j, rfl, by simpa using h, nofun⟩
    | true =>
      obtain rfl : j = 0 := by simpa using h.1
      exact ⟨true, 0, rfl, by decide, fun _ => rfl⟩

/-- A multiplier times a rounded value: the sign of the value, and a magnitude not above what was rounded. -/
theorem mul_round_quanta {m : F} (hm : inMultiplier m = true) (s : Bool) {n : Nat}
    (hfin : (F.round s n 1).isFinite = true) :
    ∃ p : Nat, p ≤ n ∧ (F.mul m (F.round s n 1)).isFinite = true ∧
      toRat (F.mul m (F.round s n 1)) = (if s then -1 else 1) * (p : ℚ) / 2 ^ 149 := by
  obtain ⟨t, j, rfl, hj, hzero⟩ := inMultiplier_cases hm
  have hk : roundMag n 1 < magInf := by
    by_contra hover
    rw [F.round, dif_neg hover] at hfin
    cases hfin
  have hp : roundMag (magVal j.val * magVal (roundMag n 1)) (2 ^ 149) < magInf :=
    (roundMag_scaled_le hj _).trans_lt hk
  refine ⟨_, magVal_roundMag_scaled_le hj n, ?_⟩
  rw [round_fin hk]
  simp only [F.mul, round_fin hp]
  refine ⟨rfl, ?_⟩
  cases t with
  | false => cases s <;> rfl
  | true =>
    have hp0 : roundMag (magVal j.val * magVal (roundMag n 1)) (2 ^ 149) = 0 :=
      Nat.le_zero.mp (roundMag_le 0 (by positivity) (by simp [hzero rfl, magVal_zero]))
    generalize roundMag (magVal j.val * magVal (roundMag n 1)) (2 ^ 149) = p at hp hp0 ⊢
    subst hp0
    simp [toRat, magVal_zero]

/-- A multiplier times a rounded difference lies between zero and the exact difference. -/
theorem mul_sub_between {m a b : F} (hm : inMultiplier m = true) (ha : a.isFinite = true) (hb : b.isFinite = true)
    (hsub : (F.sub a b).isFinite = true) :
    (F.mul m (F.sub a b)).isFinite = true ∧
      (toRat b ≤ toRat a → 0 ≤ toRat (F.mul m (F.sub a b)) ∧ toRat (F.mul m (F.sub a b)) ≤ toRat a - toRat b) ∧
      (toRat a ≤ toRat b → toRat a - toRat b ≤ toRat (F.mul m (F.sub a b)) ∧ toRat (F.mul m (F.sub a b)) ≤ 0) := by
  obtain ⟨s, n, hround, hdiff⟩ := sub_eq_round ha hb
  rw [hround] at hsub ⊢
  obtain ⟨p, hpn, hfin, hval⟩ := mul_round_quanta hm s hsub
  have hle : (p : ℚ) / 2 ^ 149 ≤ n / 2 ^ 149 := by
    rw [div_le_div_iff_of_pos_right two149_pos]
    exact_mod_cast hpn
  have hpos : (0 : ℚ) ≤ p / 2 ^ 149 := by positivity
  rw [mul_div_assoc] at hval hdiff
  cases s with
  | false =>
    simp only [Bool.false_eq_true, if_false, one_mul] at hval hdiff
    exact ⟨hfin, fun _ => ⟨by linarith, by linarith⟩, fun _ => ⟨by linarith, by linarith⟩⟩
  | true =>
    simp only [if_true, neg_one_mul] at hval hdiff
    exact ⟨hfin, fun _ => ⟨by linarith, by linarith⟩, fun _ => ⟨by linarith, by linarith⟩⟩

/-- A segment lies between its target and the level (R224): what is added to the target does not exceed their exact
distance, so the sum is rounded from between them. -/
theorem envSegment_between {target m level : F} (hm : inMultiplier m = true) (ht : target.isFinite = true)
    (hl : level.isFinite = true) (hsub : (F.sub level target).isFinite = true) :
    (F.le target level = true → F.le target (envSegment target m level) = true ∧
      F.le (envSegment target m level) level = true) ∧
    (F.le level target = true → F.le level (envSegment target m level) = true ∧
      F.le (envSegment target m level) target = true) := by
  obtain ⟨hfin, hdown, hup⟩ := mul_sub_between hm hl ht hsub
  obtain ⟨-, hsum⟩ := add_respects ht hfin
  rw [le_iff_toRat ht hl, le_iff_toRat hl ht]
  refine ⟨fun h => ?_, fun h => ?_⟩
  · obtain ⟨hlo, hhi⟩ := hdown h
    exact ⟨(hsum target ht).2 (by linarith), (hsum level hl).1 (by linarith)⟩
  · obtain ⟨hlo, hhi⟩ := hup h
    exact ⟨(hsum level hl).2 (by linarith), (hsum target ht).1 (by linarith)⟩

end Sys2Proof.Machine
end

section
/-!
SUPPORT. The multipliers of R222 are in `[0, 1)` at settings a machine may have: their exponents are finite and below
zero, by bounds that are powers of two.
-/

namespace Sys2Proof.Machine

open Config
open F hiding neg_neg

/-! ## Bounds that are powers of two -/

/-- A rounded result between two finite values that bound the exact one. -/
theorem Respects.between {x : ℚ} {r lo hi : F} (h : Respects x r) (hlo : lo.isFinite = true) (hhi : hi.isFinite = true)
    (h1 : toRat lo ≤ x) (h2 : x ≤ toRat hi) : r.isFinite = true ∧ toRat lo ≤ toRat r ∧ toRat r ≤ toRat hi := by
  obtain ⟨-, hside⟩ := h
  have hbelow := (hside lo hlo).2 h1
  have habove := (hside hi hhi).1 h2
  have hr := isFinite_of_between hlo hhi hbelow habove
  exact ⟨hr, (le_iff_toRat hlo hr).mp hbelow, (le_iff_toRat hr hhi).mp habove⟩

/-- Every power of two of a normal exponent is representable (R17). -/
theorem exists_toRat_eq_zpow {e : ℤ} (hlo : -126 ≤ e) (hhi : e ≤ 127) :
    ∃ c : F, c.isFinite = true ∧ toRat c = 2 ^ e := by
  obtain ⟨k, hk⟩ : ∃ k : Nat, e = k - 126 := ⟨(e + 126).toNat, by omega⟩
  have hmag : k * 2 ^ 23 + 2 ^ 23 < magInf := by simp only [magInf]; omega
  refine ⟨.fin false ⟨k * 2 ^ 23 + 2 ^ 23, hmag⟩, rfl, ?_⟩
  rw [toRat_pos, magVal_mantissa k (2 ^ 23) (by norm_num) (.inr le_rfl), hk, zpow_sub₀ two_ne_zero, zpow_natCast]
  push_cast
  rw [div_eq_div_iff (by positivity) (by positivity)]
  norm_num
  ring

/-- A finite value between two powers of two. -/
def BetweenPow (a b : ℤ) (x : F) : Prop := x.isFinite = true ∧ 2 ^ a ≤ toRat x ∧ toRat x ≤ 2 ^ b

/-- A result rounded from between two powers of two. -/
theorem BetweenPow.of_respects {x : ℚ} {r : F} {a b : ℤ} (h : Respects x r) (ha : -126 ≤ a) (hb : b ≤ 127)
    (h1 : 2 ^ a ≤ x) (h2 : x ≤ 2 ^ b) : BetweenPow a b r := by
  have hab : a ≤ b := (zpow_le_zpow_iff_right₀ one_lt_two).mp (h1.trans h2)
  obtain ⟨lo, hlo, hloval⟩ := exists_toRat_eq_zpow ha (hab.trans hb)
  obtain ⟨hi, hhi, hhival⟩ := exists_toRat_eq_zpow (ha.trans hab) hb
  rw [← hloval] at h1
  rw [← hhival] at h2
  rw [BetweenPow, ← hloval, ← hhival]
  exact h.between hlo hhi h1 h2

/-- `*` (R18). -/
theorem BetweenPow.mul {a b c d : ℤ} {x y : F} (hx : BetweenPow a b x) (hy : BetweenPow c d y) (ha : -126 ≤ a + c)
    (hb : b + d ≤ 127) : BetweenPow (a + c) (b + d) (F.mul x y) := by
  obtain ⟨hxfin, hxlo, hxhi⟩ := hx
  obtain ⟨hyfin, hylo, hyhi⟩ := hy
  have hxpos : 0 ≤ toRat x := (zpow_pos two_pos a).le.trans hxlo
  have hypos : 0 ≤ toRat y := (zpow_pos two_pos c).le.trans hylo
  refine .of_respects (mul_respects hxfin hyfin) ha hb ?_ ?_
  · rw [zpow_add₀ two_ne_zero]
    exact mul_le_mul hxlo hylo (by positivity) hxpos
  · rw [zpow_add₀ two_ne_zero]
    exact mul_le_mul hxhi hyhi hypos (by positivity)

/-- `1.0 / x` (R18). -/
theorem BetweenPow.recip {a b : ℤ} {x : F} (hx : BetweenPow a b x) (ha : -126 ≤ -b) (hb : -a ≤ 127) :
    BetweenPow (-b) (-a) (F.div F.one x) := by
  obtain ⟨hfin, hlo, hhi⟩ := hx
  have hpos : 0 < toRat x := (zpow_pos two_pos a).trans_le hlo
  have hres := div_respects (x := F.one) rfl hfin hpos.ne'
  rw [toRat_one] at hres
  refine .of_respects hres ha hb ?_ ?_
  · rw [zpow_neg, ← one_div]
    exact one_div_le_one_div_of_le hpos hhi
  · rw [zpow_neg, ← one_div]
    exact one_div_le_one_div_of_le (by positivity) hlo

/-! ## The exponent of a multiplier (R222) -/

theorem ms_betweenPow : BetweenPow (-10) 0 ms := by
  have hval : toRat ms = 8589935 / 2 ^ 33 := toRat_of_pattern 0x3A83126F (by decide) (by norm_num [F.magVal])
  exact ⟨rfl, by rw [hval]; norm_num, by rw [hval]; norm_num⟩

/-- A finite value inside a row whose bounds lie between two powers of two. -/
theorem BetweenPow.of_inRow {r : Range} {x lo hi : F} {a b : ℤ} (h : inRow r x = true)
    (hr : rowWithin lo hi r = true) (hlo : BetweenPow a a lo) (hhi : BetweenPow b b hi) : BetweenPow a b x := by
  simp only [rowWithin, inRow, Bool.and_eq_true] at hr h
  obtain ⟨hrlo, hrhi⟩ := hr
  obtain ⟨⟨hx, hxlo⟩, hxhi⟩ := h
  obtain ⟨hlofin, hloval, -⟩ := hlo
  obtain ⟨hhifin, -, hhival⟩ := hhi
  exact ⟨hx, hloval.trans ((le_iff_toRat hlofin hx).mp (F.le_trans' hrlo hxlo)),
    ((le_iff_toRat hx hhifin).mp (F.le_trans' hxhi hrhi)).trans hhival⟩

theorem one_betweenPow : BetweenPow 0 0 F.one := ⟨rfl, by simp [toRat_one], by simp [toRat_one]⟩

theorem two60_betweenPow : BetweenPow 60 60 (F.lit (2 ^ 60) 1) := by
  have hval : toRat (F.lit (2 ^ 60) 1) = 2 ^ (60 : ℤ) :=
    toRat_of_pattern 0x5D800000 (by decide) (by norm_num [F.magVal])
  exact ⟨rfl, hval.ge, hval.le⟩

theorem recipTwo60_betweenPow : BetweenPow (-60) (-60) (F.lit 1 (2 ^ 60)) := by
  have hval : toRat (F.lit 1 (2 ^ 60)) = 2 ^ (-60 : ℤ) :=
    toRat_of_pattern 0x21800000 (by decide) (by norm_num [F.magVal])
  exact ⟨rfl, hval.ge, hval.le⟩

/-- `env_mult` of a time in range is a multiplier: its time in samples is finite and not zero. -/
theorem envMult_inMultiplier {T : Settings} (hT : SettingsOk T) {fs : F} (hfs : inRange T .sysFs fs = true)
    (P : Params) {c : Control} (hc : c ∈ ([.envAttack, .envDecay, .envRelease] : List Control)) {t : F}
    (ht : inRange T c t = true) : inMultiplier (envMult P fs t) = true := by
  have htime : BetweenPow (-60) 60 t := .of_inRow ht (hT.times c hc) recipTwo60_betweenPow two60_betweenPow
  have hrate : BetweenPow 0 60 fs := .of_inRow hfs hT.rate one_betweenPow two60_betweenPow
  have hsamples : BetweenPow (-70) 120 (F.mul (F.mul t ms) fs) :=
    (htime.mul ms_betweenPow (by norm_num) (by norm_num)).mul hrate (by norm_num) (by norm_num)
  obtain ⟨hfin, hpos, -⟩ := hsamples.recip (by norm_num) (by norm_num)
  have hneg : (F.neg (F.div F.one (F.mul (F.mul t ms) fs))).isFinite = true := by rwa [isFinite_neg]
  refine fexp_multiplier P _ hneg ?_
  rw [lt_iff_toRat hneg rfl, toRat_neg, toRat_zero]
  exact neg_neg_of_pos ((zpow_pos two_pos _).trans_le hpos)

end Sys2Proof.Machine
end

section
/-!
SUPPORT. One envelope: what its stage step makes of stage and level, in one case analysis, and the bounds of R234 on
it. The bounds rest on the segment lying between its level and its target.
-/

namespace Sys2Proof.Machine

open Config
open F hiding neg_neg

/-! ## The lazy recomputation and the stage step (R223, R224) -/

/-- The recomputation, field by field: the multipliers where the flag was set, and the flag cleared (R223). -/
theorem envRecompute_eq (P : Params) (fs : F) (n : EnvState) : envRecompute P fs n =
    { n with
      mA := if n.dirty then envMult P fs n.attMs else n.mA
      mD := if n.dirty then envMult P fs n.decMs else n.mD
      mR := if n.dirty then envMult P fs n.relMs else n.mR
      dirty := false } := by
  unfold envRecompute
  split_ifs with hdirty
  · rfl
  · rw [← Bool.eq_false_iff.mpr hdirty]

@[simp] theorem envRecompute_st (P : Params) (fs : F) (n : EnvState) : (envRecompute P fs n).st = n.st := by
  rw [envRecompute_eq]
@[simp] theorem envRecompute_level (P : Params) (fs : F) (n : EnvState) : (envRecompute P fs n).level = n.level := by
  rw [envRecompute_eq]

/-- The stage and the level a stage step leaves (R224). -/
def envOutcome (n : EnvState) : Stage × F :=
  match n.st with
  | .idle => (.idle, F.zero)
  | .attack =>
    if F.ge (envSegment envAtkTarget n.mA n.level) envAtkDone then (.decay, F.one)
    else (.attack, envSegment envAtkTarget n.mA n.level)
  | .decay =>
    if F.le (F.sub (envSegment n.sus n.mD n.level) n.sus) envEps
        || F.feq (envSegment n.sus n.mD n.level) n.level then (.sustain, n.sus)
    else (.decay, envSegment n.sus n.mD n.level)
  | .sustain => (.sustain, n.sus)
  | .release =>
    if F.lt (envSegment envRelTarget n.mR n.level) envEps then (.idle, F.zero)
    else (.release, envSegment envRelTarget n.mR n.level)

/-- A stage step writes the stage and the level and nothing else of the envelope. -/
theorem envStep_eq (n : EnvState) : envStep n = { n with st := (envOutcome n).1, level := (envOutcome n).2 } := by
  obtain ⟨st, level, attMs, decMs, sus, relMs, mA, mD, mR, dirty⟩ := n
  cases st with
  | idle | sustain => rfl
  | attack => simp only [envStep, envAttackStep, envOutcome]; split_ifs <;> rfl
  | decay => simp only [envStep, envDecayStep, envOutcome]; split_ifs <;> rfl
  | release => simp only [envStep, envReleaseStep, envOutcome]; split_ifs <;> rfl

/-- The edges of a stage step (R237). -/
theorem envOutcome_stage (n : EnvState) : (envOutcome n).1 = n.st ∨ (n.st = .attack ∧ (envOutcome n).1 = .decay) ∨
    (n.st = .decay ∧ (envOutcome n).1 = .sustain) ∨ (n.st = .release ∧ (envOutcome n).1 = .idle) := by
  unfold envOutcome
  cases n.st with
  | idle | sustain => exact .inl rfl
  | attack | decay | release => dsimp only; split_ifs <;> simp

/-! ## Segments between levels (R234) -/

/-- A value in `[0, 1]` by its exact value. -/
theorem inUnit_iff_toRat (x : F) : inUnit x = true ↔ x.isFinite = true ∧ 0 ≤ toRat x ∧ toRat x ≤ 1 := by
  constructor
  · intro h
    simp only [inUnit, Bool.and_eq_true] at h
    obtain ⟨hlo, hhi⟩ := h
    have hx := isFinite_of_between rfl rfl hlo hhi
    rw [le_iff_toRat rfl hx, toRat_zero] at hlo
    rw [le_iff_toRat hx rfl, toRat_one] at hhi
    exact ⟨hx, hlo, hhi⟩
  · rintro ⟨hx, hlo, hhi⟩
    rw [inUnit, Bool.and_eq_true, le_iff_toRat rfl hx, le_iff_toRat hx rfl, toRat_zero, toRat_one]
    exact ⟨hlo, hhi⟩

/-- A level and a target in `[0, 2]` differ by what does not overflow. -/
theorem sub_isFinite_of_inUnit {level target : F} (hl : inUnit level = true) (ht : target.isFinite = true)
    (hlo : 0 ≤ toRat target) (hhi : toRat target ≤ 2) : (F.sub level target).isFinite = true := by
  obtain ⟨hfin, hl0, hl1⟩ := (inUnit_iff_toRat level).mp hl
  refine (sub_isRounded hfin ht).roundsTo.isFinite ?_
  calc |toRat level - toRat target| ≤ 2 := abs_le.mpr ⟨by linarith, by linarith⟩
    _ < (2 ^ 25 - 1) * 2 ^ 103 := by norm_num

section
variable {m level target : F} (hm : inMultiplier m = true) (hl : inUnit level = true)
include hm hl

/-- A segment towards a level in `[0, 1]` stays in `[0, 1]`. -/
theorem envSegment_inUnit (ht : inUnit target = true) : inUnit (envSegment target m level) = true := by
  obtain ⟨htfin, ht0, ht1⟩ := (inUnit_iff_toRat target).mp ht
  obtain ⟨hlfin, hl0, hl1⟩ := (inUnit_iff_toRat level).mp hl
  obtain ⟨hdown, hup⟩ := envSegment_between hm htfin hlfin (sub_isFinite_of_inUnit hl htfin ht0 (by linarith))
  simp only [inUnit, Bool.and_eq_true] at ht hl ⊢
  rcases le_total (toRat target) (toRat level) with h | h
  · obtain ⟨hlo, hhi⟩ := hdown ((le_iff_toRat htfin hlfin).mpr h)
    exact ⟨F.le_trans' ht.1 hlo, F.le_trans' hhi hl.2⟩
  · obtain ⟨hlo, hhi⟩ := hup ((le_iff_toRat hlfin htfin).mpr h)
    exact ⟨F.le_trans' hl.1 hlo, F.le_trans' hhi ht.2⟩

/-- A segment of Attack does not fall below the level: its target lies above 1.0 (R13). -/
theorem le_envSegment_attack : F.le level (envSegment envAtkTarget m level) = true := by
  obtain ⟨hlfin, hl0, hl1⟩ := (inUnit_iff_toRat level).mp hl
  have htarget : toRat envAtkTarget = 9227469 / 2 ^ 23 :=
    toRat_of_pattern 0x3F8CCCCD (by decide) (by norm_num [F.magVal])
  have hsub : (F.sub level envAtkTarget).isFinite = true :=
    sub_isFinite_of_inUnit hl rfl (by rw [htarget]; norm_num) (by rw [htarget]; norm_num)
  have hbelow : F.le level envAtkTarget = true := by
    rw [le_iff_toRat hlfin rfl, htarget]
    exact hl1.trans (by norm_num)
  exact ((envSegment_between hm rfl hlfin hsub).2 hbelow).1

/-- A segment of Release lies between 0.0 and the level. -/
theorem envSegment_release_between :
    F.le F.zero (envSegment envRelTarget m level) = true ∧ F.le (envSegment envRelTarget m level) level = true := by
  obtain ⟨hlfin, hl0, hl1⟩ := (inUnit_iff_toRat level).mp hl
  have htarget : toRat envRelTarget = 0 := toRat_zero
  have hsub : (F.sub level envRelTarget).isFinite = true :=
    sub_isFinite_of_inUnit hl rfl htarget.ge (by rw [htarget]; norm_num)
  have habove : F.le envRelTarget level = true := by rwa [le_iff_toRat rfl hlfin, htarget]
  exact (envSegment_between hm rfl hlfin hsub).1 habove

end

/-! ## Bounds on a stage step (R234) -/

section
variable {n : EnvState} (hl : inUnit n.level = true)
include hl

/-- Attack goes up and not above 1.0, and ends at exactly 1.0. -/
theorem envOutcome_attack (hst : n.st = .attack) (hm : inMultiplier n.mA = true) :
    F.le n.level (envOutcome n).2 = true ∧ F.le (envOutcome n).2 F.one = true ∧
      ((envOutcome n).1 = .attack ∨ ((envOutcome n).1 = .decay ∧ (envOutcome n).2 = F.one)) := by
  have hrise := le_envSegment_attack hm hl
  simp only [inUnit, Bool.and_eq_true] at hl
  obtain ⟨-, hone⟩ := hl
  simp only [envOutcome, hst]
  split_ifs with hdone
  · exact ⟨hone, le_refl_of F.one (by decide), .inr ⟨rfl, rfl⟩⟩
  · exact ⟨hrise, le_of_lt (lt_of_not_ge (ne_nan_of_le hrise).2 (by decide) hdone), .inl rfl⟩

/-- Release goes down and not below 0.0, and ends at exactly 0.0. -/
theorem envOutcome_release (hst : n.st = .release) (hm : inMultiplier n.mR = true) :
    F.le F.zero (envOutcome n).2 = true ∧ F.le (envOutcome n).2 n.level = true ∧
      ((envOutcome n).1 = .release ∨ ((envOutcome n).1 = .idle ∧ (envOutcome n).2 = F.zero)) := by
  obtain ⟨hpos, hfall⟩ := envSegment_release_between hm hl
  simp only [envOutcome, hst]
  split_ifs
  · exact ⟨le_refl_of F.zero (by decide), F.le_trans' hpos hfall, .inr ⟨rfl, rfl⟩⟩
  · exact ⟨hpos, hfall, .inl rfl⟩

/-- Decay goes towards the sustain level or ends at it, and so stays in `[0, 1]`. -/
theorem envOutcome_decay (hst : n.st = .decay) (hm : inMultiplier n.mD = true) (hs : inUnit n.sus = true) :
    inUnit (envOutcome n).2 = true := by
  simp only [envOutcome, hst]
  split_ifs
  · exact hs
  · exact envSegment_inUnit hm hl hs

end

/-- A stage step keeps the level in `[0, 1]`. -/
theorem envOutcome_inUnit {n : EnvState} (h : n.Bounded) (hs : inUnit n.sus = true) :
    inUnit (envOutcome n).2 = true := by
  obtain ⟨hl, hA, hD, hR⟩ := h
  have ⟨hzero, hone⟩ : F.le F.zero n.level = true ∧ F.le n.level F.one = true := Bool.and_eq_true_iff.mp hl
  cases hst : n.st with
  | idle =>
    simp only [envOutcome, hst]
    exact inUnit_zero rfl
  | attack =>
    obtain ⟨hrise, htop, -⟩ := envOutcome_attack hl hst hA
    exact Bool.and_eq_true_iff.mpr ⟨F.le_trans' hzero hrise, htop⟩
  | decay => exact envOutcome_decay hl hst hD hs
  | sustain => simpa only [envOutcome, hst] using hs
  | release =>
    obtain ⟨hpos, hfall, -⟩ := envOutcome_release hl hst hR
    exact Bool.and_eq_true_iff.mpr ⟨hpos, F.le_trans' hfall hone⟩

/-! ## Bounds on a command (R234, R386) -/

/-- Idle at level 0.0 is bounded. -/
theorem EnvState.Bounded.clear {n : EnvState} (h : n.Bounded) : n.clear.Bounded := by
  obtain ⟨-, hmult⟩ := h
  exact ⟨inUnit_zero rfl, hmult⟩

section
variable {T : Settings} (hT : SettingsOk T)
include hT

/-- A sustain level in range is in `[0, 1]`, at settings a machine may have. -/
theorem inUnit_of_envSustain {x : F} (h : inRange T .envSustain x = true) : inUnit x = true := by
  have hrow := hT.units .envSustain (by decide)
  simp only [inRange, inRow, rowWithin, inUnit, Bool.and_eq_true] at h hrow ⊢
  obtain ⟨⟨-, hlo⟩, hhi⟩ := h
  obtain ⟨hzero, hone⟩ := hrow
  exact ⟨F.le_trans' hzero hlo, F.le_trans' hhi hone⟩

variable {fs : F} (hfs : inRange T .sysFs fs = true) {n : EnvState} (hn : n.InRange T) (h : n.Bounded)
include hfs hn h

/-- Recomputed multipliers are multipliers (R222, R223). -/
theorem envRecompute_bounded (P : Params) : (envRecompute P fs n).Bounded := by
  obtain ⟨hatt, hdec, -, hrel⟩ := hn
  have ⟨hl, _⟩ := h
  unfold envRecompute
  split_ifs
  · exact ⟨hl, envMult_inMultiplier hT hfs P (by decide) hatt, envMult_inMultiplier hT hfs P (by decide) hdec,
      envMult_inMultiplier hT hfs P (by decide) hrel⟩
  · exact h

/-- ENV.PROCESS keeps its envelope bounded (R232). -/
theorem envProcess_bounded (P : Params) : (envProcess P fs n).Bounded := by
  have hfresh := envRecompute_bounded hT hfs hn h P
  obtain ⟨-, -, hsus, -⟩ := envRecompute_inRange P fs hn
  have hlevel := envOutcome_inUnit hfresh (inUnit_of_envSustain hT hsus)
  obtain ⟨-, hmult⟩ := hfresh
  rw [envProcess, envStep_eq]
  exact ⟨hlevel, hmult⟩

/-- ENV commands keep their envelope bounded. -/
theorem envEffect_bounded (i : Instr) : (envEffect T fs i n).1.Bounded := by
  cases i with
  | envReset _ _ => exact h.clear
  | envNoteOff _ _ =>
    show EnvState.Bounded (if n.st = .idle then n else { n with st := .release })
    split_ifs <;> exact h
  | envProcess _ _ => exact envProcess_bounded hT hfs hn h params
  | _ => exact h

end

end Sys2Proof.Machine
end

section
/-!
PROOF. The envelope family: the bounds every step keeps (O56) and the monotone segments (O35), ENV.PROCESS (O34), the
stage graph (O36), and ENV.RESET, the setters, NOTE_ON and NOTE_OFF (O33).
-/

namespace Sys2Proof.Machine

open Config

/-! ## Commands on one envelope -/

/-- The envelope a command is addressed to, after it. -/
theorem env_of_exec {i : Instr} {v : Voice} {e : EnvSel} {s t : State} (hu : unitOf i = some (.env v e))
    (h : exec i s = .next t) : t.env[v][e] = (envEffect s.settings s.sys.fs i s.env[v][e]).1 := by
  obtain rfl := exec_runUnit hu h
  exact State.unit_runUnit_same s i (.env v e)

/-- A command addressed to an envelope that returns nothing writes its effect and does nothing else. -/
theorem exec_eq_setEnv {i : Instr} {v : Voice} {e : EnvSel} (hu : unitOf i = some (.env v e))
    (hi : i.operandsOk = true) {s : State} {n : EnvState}
    (h : envEffect s.settings s.sys.fs i s.env[v][e] = (n, .nothing)) : exec i s = .next (s.setEnv v e n) :=
  exec_eq_setUnit hu hi h

theorem exec_envProcess (v : Voice) (e : EnvSel) (s : State) : exec (.envProcess v e) s =
    .next ((s.setEnv v e (envProcess params s.sys.fs s.env[v][e])).pushReal params
      (envProcess params s.sys.fs s.env[v][e]).level) := rfl

/-! ## Bounds (R234) -/

/-- Settles O56: a step waits or executes one command, and a command keeps the bounds of the envelope it is addressed
to: each segment lies between its level and its target, and a multiplier recomputed from a time in range is one. -/
theorem stepKeepsEnvelopesBounded : Obligations.StepKeepsEnvelopesBounded := by
  intro s t hs hbounded hstep
  refine ⟨stepKeepsParametersInRange s t hs hstep, ?_⟩
  rcases step_next hstep with ⟨-, rfl⟩ | ⟨i, rest, -, hexec⟩
  · exact hbounded
  · intro v e
    have haccept := State.accept_paramsInRange hs s.served rest
    have hn : (s.accept s.served rest).env[v][e].Bounded := by simpa using hbounded v e
    exact exec_keeps_unit (.env v e) EnvState.Bounded hexec hn
      (fun _ => envEffect_bounded haccept.settings haccept.fs (haccept.env v e) hn i)
      (fun _ => EnvState.Bounded.clear) (fun _ => id)

/-- Settles O35: the outcome of the stage step on the recomputed envelope, in Attack and in Release. -/
theorem envelopeSegmentsAreMonotone : Obligations.EnvelopeSegmentsAreMonotone := by
  intro v e s t hT hfs hn hbounded hexec
  have ht : t.env[v][e] = envStep (envRecompute params s.sys.fs s.env[v][e]) := env_of_exec rfl hexec
  have hst := envRecompute_st params s.sys.fs s.env[v][e]
  have hlevel := envRecompute_level params s.sys.fs s.env[v][e]
  obtain ⟨hl, hA, -, hR⟩ := envRecompute_bounded hT hfs hn hbounded params
  rw [ht, envStep_eq]
  refine ⟨fun hattack => ?_, fun hrelease => ?_⟩
  · obtain ⟨hrise, -, hedge⟩ := envOutcome_attack hl (hst.trans hattack) hA
    rw [hlevel] at hrise
    exact ⟨hrise, hedge⟩
  · obtain ⟨-, hfall, hedge⟩ := envOutcome_release hl (hst.trans hrelease) hR
    rw [hlevel] at hfall
    exact ⟨hfall, hedge⟩

/-! ## ENV.PROCESS (R232) -/

/-- Settles O34: the recomputation and the stage step, each an update of the fields it writes. -/
theorem envelopeProcessResult : Obligations.EnvelopeProcessResult := by
  intro v e s n mult mA mD mR segment up down out eps next
  have hfresh : envRecompute params s.sys.fs n = { n with mA := mA, mD := mD, mR := mR, dirty := false } :=
    envRecompute_eq params s.sys.fs n
  have htarget : envAtkTarget = F.asF 0x3F8CCCCD#32 := by decide
  have heps : envEps = eps := by decide
  have hnext : envOutcome { n with mA := mA, mD := mD, mR := mR, dirty := false } = next := by
    rw [envOutcome, htarget, heps]
    rfl
  have hproc : envProcess params s.sys.fs n =
      { n with st := next.1, level := next.2, mA := mA, mD := mD, mR := mR, dirty := false } := by
    rw [envProcess, hfresh, envStep_eq, hnext]
  refine ⟨_, exec_envProcess v e s, ?_⟩
  rw [hproc]
  exact pushReal_returned params _ next.2

/-! ## The stage graph (R237) -/

/-- The stages a command can take the envelope it is addressed to. -/
theorem envEffect_stage {i : Instr} {v : Voice} {e : EnvSel} (hu : unitOf i = some (.env v e)) (T : Settings) (fs : F)
    (n : EnvState) :
    (envEffect T fs i n).1.st = n.st ∨ (i = .envNoteOn v e ∧ (envEffect T fs i n).1.st = .attack) ∨
      (i = .envNoteOff v e ∧ n.st ≠ .idle ∧ (envEffect T fs i n).1.st = .release) ∨
      (i = .envProcess v e ∧
        ((n.st = .attack ∧ (envEffect T fs i n).1.st = .decay) ∨
          (n.st = .decay ∧ (envEffect T fs i n).1.st = .sustain) ∨
          (n.st = .release ∧ (envEffect T fs i n).1.st = .idle))) ∨
      (i = .envReset v e ∧ (envEffect T fs i n).1.st = .idle) := by
  cases i with
  | envReset _ _ => cases hu; exact .inr (.inr (.inr (.inr ⟨rfl, rfl⟩)))
  | envNoteOn _ _ => cases hu; exact .inr (.inl ⟨rfl, rfl⟩)
  | envNoteOff _ _ =>
    cases hu
    by_cases hidle : n.st = .idle
    · exact .inl (congrArg EnvState.st (if_pos hidle))
    · exact .inr (.inr (.inl ⟨rfl, hidle, congrArg EnvState.st (if_neg hidle)⟩))
  | envProcess _ _ =>
    cases hu
    have hst : (envEffect T fs (.envProcess v e) n).1.st = (envOutcome (envRecompute params fs n)).1 :=
      congrArg EnvState.st (envStep_eq _)
    rw [hst, ← envRecompute_st params fs n]
    exact (envOutcome_stage _).imp_right fun hedge => .inr (.inr (.inl ⟨rfl, hedge⟩))
  | envSetAttack _ _ _ | envSetDecay _ _ _ | envSetSustain _ _ _ | envSetRelease _ _ _ | envGetLevel _ _
  | envGetState _ _ => exact .inl rfl
  | _ => cases hu

/-- Settles O36: a command runs on one unit, and takes an envelope along its own edges or leaves it as it is; the two
SYS commands clear every envelope. -/
theorem stageGraphIsTheListedOne : Obligations.StageGraphIsTheListedOne := by
  intro i s t v e h
  rcases exec_next h with ⟨u, hu, ht⟩ | ⟨hi, rfl⟩ | ⟨blk, fs, hi, rfl⟩
  · by_cases hue : u = .env v e
    · subst hue
      rw [env_of_exec hu h]
      rcases envEffect_stage hu s.settings s.sys.fs s.env[v][e] with hkeep | hon | hoff | hproc | ⟨hreset, hidle⟩
      · exact .inl hkeep
      · exact .inr (.inl hon)
      · exact .inr (.inr (.inl hoff))
      · exact .inr (.inr (.inr (.inl hproc)))
      · exact .inr (.inr (.inr (.inr ⟨.inl hreset, hidle⟩)))
    · have hkeep : t.env[v][e] = s.env[v][e] := ht ▸ State.unit_runUnit_other s i hue
      exact .inl (congrArg EnvState.st hkeep)
  · have hidle : s.clearSignals.env[v][e].st = .idle := congrArg EnvState.st (s.unit_clearSignals (.env v e))
    exact .inr (.inr (.inr (.inr ⟨.inr (.inl hi), hidle⟩)))
  · have hidle : (s.prepared blk fs).env[v][e].st = .idle := congrArg EnvState.st (s.unit_prepared blk fs (.env v e))
    exact .inr (.inr (.inr (.inr ⟨.inr (.inr ⟨blk, fs, hi⟩), hidle⟩)))

/-! ## Commands that return nothing (R225 to R231) -/

/-- Settles O33: each command is one write to its envelope, but for NOTE_OFF in Idle, which is none. -/
theorem envelopeSettersResult : Obligations.EnvelopeSettersResult := by
  intro v e w s n put
  exact ⟨exec_eq_setEnv rfl rfl rfl, exec_eq_setEnv rfl rfl rfl, exec_eq_setEnv rfl rfl rfl,
    exec_eq_setEnv rfl rfl rfl, exec_eq_setEnv rfl rfl rfl, exec_eq_setEnv rfl rfl rfl, rfl⟩

end Sys2Proof.Machine
end

section
/-!
PROOF. The biquad filter family: FB.PROCESS (O38), and FB.RESET and the three setters (O37).
-/

namespace Sys2Proof.Machine

open Sys2Proof Config

/-! ## Commands on one filter -/

/-- A command addressed to a filter that returns nothing writes its effect and does nothing else. -/
theorem exec_eq_setFb {i : Instr} {v : Voice} (hu : unitOf i = some (.fb v)) (hi : i.operandsOk = true) {s : State}
    {b : FbState} (h : fbEffect s.settings s.sys.fs i s.fb[v] = (b, .nothing)) :
    exec i s = .next (s.setFb v b) :=
  exec_eq_setUnit hu hi h

theorem exec_fbProcess (v : Voice) (x : Word) (s : State) : exec (.fbProcess v x) s =
    .next ((s.setFb v (fbAdvance (fbFresh params s.sys.fs s.fb[v]) (signal x))).pushReal params
      (fbOut (fbFresh params s.sys.fs s.fb[v]) (signal x))) := rfl

/-! ## FB.PROCESS (R252 to R254, R259 to R261) -/

/-- Settles O38: mode by mode the numerators are those of R254's table, so the lazy recomputation leaves `r`, and the
transposed step runs on that filter. -/
theorem biquadProcessResult : Obligations.BiquadProcessResult := by
  intro v wx s b fs x lim fc q w c alpha a0 n0 n1 n2 r out
  have hnum : fbNumerators b.mode c alpha = (n0, n1, n2) := by
    simp only [n0, n1, n2]
    cases b.mode <;> rfl
  have hrecompute : fbRecompute params fs b = fbCoefficients b (n0, n1, n2) c alpha :=
    congrArg (fbCoefficients b · c alpha) hnum
  have hfresh : fbFresh params fs b = r := by
    rw [fbFresh, hrecompute]
    rfl
  refine ⟨_, exec_fbProcess v wx s, ?_⟩
  rw [hfresh]
  exact pushReal_returned params _ out

/-! ## Commands that return nothing (R255 to R258) -/

/-- Settles O37: each command is one write to the slot's filter. -/
theorem biquadSettersResult : Obligations.BiquadSettersResult := by
  intro v w m s put
  exact ⟨exec_eq_setFb rfl rfl rfl, exec_eq_setFb rfl rfl rfl, exec_eq_setFb rfl rfl rfl,
    exec_eq_setFb rfl rfl rfl⟩

end Sys2Proof.Machine
end

section
/-!
SUPPORT. Rounded arithmetic: rounding keeps the order of exact results, whole numbers of 24 bits and their binary
fractions are exact, and a small result is off by a bounded amount (R18).
-/

namespace Sys2Proof.F

/-! ## Values of 24 bits -/

/-- A whole number of 24 bits, shifted, is representable. -/
theorem magVal_roundMag_shifted {q : Nat} (hq : q ≤ 2 ^ 24) (e : Nat) :
    magVal (roundMag (q * 2 ^ e) 1) = q * 2 ^ e := by
  apply magVal_roundMag_of_dvd
  rcases Nat.eq_or_lt_of_le hq with rfl | hlt
  · rw [← pow_add, Nat.log2_two_pow]
    exact Nat.pow_dvd_pow 2 (by omega)
  · have hlog : (q * 2 ^ e).log2 < 24 + e := by
      by_cases h0 : q * 2 ^ e = 0
      · rw [h0, Nat.log2_zero]; omega
      · rw [Nat.log2_lt h0, pow_add]
        exact Nat.mul_lt_mul_of_pos_right hlt (by positivity)
    exact (Nat.pow_dvd_pow 2 (by omega)).mul_left q

/-! ## Products (R18) -/

theorem mul_comm' (x y : F) : mul x y = mul y x := by
  cases x with
  | nan => cases y <;> rfl
  | inf s => cases y <;> simp [mul, bne_comm]
  | fin s m => cases y <;> simp [mul, bne_comm, Nat.mul_comm]

end Sys2Proof.F

namespace Sys2Proof.Machine

open F hiding neg_neg

/-! ## Rounding keeps the order (R18) -/

/-- A rounded result lies on the side of every finite value that its exact value does. -/
theorem IsRounded.respects {x : ℚ} {r : F} (h : IsRounded x r) : Respects x r := by
  obtain ⟨s, n, d, hd, rfl, rfl⟩ := h
  have hr := round_respects s n d hd
  rwa [← mul_div_assoc, ← mul_div_assoc] at hr

/-- A positive exact result is rounded with its sign clear. -/
theorem IsRounded.of_pos {x : ℚ} {r : F} (h : IsRounded x r) (hx : 0 < x) :
    ∃ n d : Nat, 0 < d ∧ r = F.round false n d ∧ x = n / d / 2 ^ 149 := by
  obtain ⟨s, n, d, hd, hr, hval⟩ := h
  rw [mul_div_assoc, mul_div_assoc] at hval
  cases s with
  | false => exact ⟨n, d, hd, hr, by simpa using hval⟩
  | true =>
    have hn : (0 : ℚ) ≤ n / d / 2 ^ 149 := by positivity
    simp only [if_true, neg_one_mul] at hval
    linarith

/-- Of two exact results in order and not negative, the rounded ones are in order. -/
theorem IsRounded.mono {x y : ℚ} {r q : F} (hr : IsRounded x r) (hq : IsRounded y q) (hx : 0 ≤ x) (hxy : x ≤ y) :
    F.le r q = true := by
  rcases hx.eq_or_lt with rfl | hpos
  · obtain ⟨-, hrside⟩ := hr.respects
    obtain ⟨-, hqside⟩ := hq.respects
    exact F.le_trans' ((hrside F.zero rfl).1 toRat_zero.ge) ((hqside F.zero rfl).2 (toRat_zero.le.trans hxy))
  · obtain ⟨a, b, hb, rfl, rfl⟩ := hr.of_pos hpos
    obtain ⟨c, d, hd, rfl, rfl⟩ := hq.of_pos (hpos.trans_le hxy)
    have hbq : (0 : ℚ) < b := by exact_mod_cast hb
    have hdq : (0 : ℚ) < d := by exact_mod_cast hd
    rw [div_le_div_iff_of_pos_right two149_pos, div_le_div_iff₀ hbq hdq] at hxy
    exact round_mono hb hd (by exact_mod_cast hxy)

/-! ## Exact literals, and the error of a rounded result -/

/-- Rounding a shifted whole number of 24 bits is exact. -/
theorem round_shifted {q j : Nat} (hq : q ≤ 2 ^ 24) (hj : j ≤ 149) :
    (F.round false (q * 2 ^ (149 - j)) 1).isFinite = true ∧
      toRat (F.round false (q * 2 ^ (149 - j)) 1) = q / 2 ^ j := by
  have hfin : roundMag (q * 2 ^ (149 - j)) 1 < magInf := by
    rw [roundMag_lt_magInf_iff _ _ one_pos]
    calc q * 2 ^ (149 - j) ≤ 2 ^ 24 * 2 ^ 149 := Nat.mul_le_mul hq (Nat.pow_le_pow_right two_pos (by omega))
      _ < (2 ^ 25 - 1) * 2 ^ 252 * 1 := by norm_num
  rw [round_fin hfin]
  refine ⟨rfl, ?_⟩
  rw [toRat_pos, magVal_roundMag_shifted hq, Nat.cast_mul, Nat.cast_pow, Nat.cast_ofNat,
    div_eq_div_iff two149_pos.ne' (by positivity), mul_assoc, ← pow_add, Nat.sub_add_cancel hj]

/-- A literal that is a whole number of 24 bits is exact (R18). -/
theorem toRat_lit {n : Nat} (hn : n ≤ 2 ^ 24) : (F.lit n 1).isFinite = true ∧ toRat (F.lit n 1) = n := by
  have h := round_shifted hn (Nat.zero_le 149)
  rwa [pow_zero, div_one, Nat.sub_zero] at h

/-- Every whole number of 24 bits with its sign is representable. -/
theorem exists_toRat_eq_int {k : ℤ} (hk : k.natAbs ≤ 2 ^ 24) : ∃ c : F, c.isFinite = true ∧ toRat c = k := by
  obtain ⟨hfin, hval⟩ := toRat_lit hk
  rcases k.natAbs_eq with h | h
  · exact ⟨_, hfin, by rw [hval, h]; simp⟩
  · exact ⟨F.neg (F.lit k.natAbs 1), by rwa [isFinite_neg], by rw [toRat_neg, hval, h]; simp⟩

/-- Below `2^(24 - j)` a rounded result is off by at most half a unit of `2^-j`. -/
theorem RoundsTo.error_le {x : ℚ} {r : F} {j : Nat} (h : RoundsTo x r) (hj : j ≤ 149) (h0 : 0 ≤ x)
    (hx : x * 2 ^ j ≤ 2 ^ 24) : |toRat r - x| ≤ 1 / 2 / 2 ^ j := by
  have hpow : (0 : ℚ) < 2 ^ j := by positivity
  have hnear : |(⌊x * 2 ^ j + 1 / 2⌋₊ : ℚ) / 2 ^ j - x| ≤ 1 / 2 / 2 ^ j := by
    have hlo := Nat.floor_le (a := x * 2 ^ j + 1 / 2) (by positivity)
    have hhi := Nat.lt_floor_add_one (x * 2 ^ j + 1 / 2)
    rw [div_sub' hpow.ne', abs_div, abs_of_pos hpow, div_le_div_iff_of_pos_right hpow, abs_le]
    exact ⟨by linarith, by linarith⟩
  have hk : ⌊x * 2 ^ j + 1 / 2⌋₊ ≤ 2 ^ 24 := by
    rw [← Nat.lt_succ_iff, Nat.floor_lt (by positivity)]
    push_cast
    linarith
  obtain ⟨hyfin, hy⟩ := round_shifted hk hj
  cases r with
  | nan => exact h.elim
  | inf s =>
    obtain ⟨hbig, -⟩ := h
    rw [abs_of_nonneg h0] at hbig
    have : x ≤ x * 2 ^ j := le_mul_of_one_le_right h0 (one_le_pow₀ one_le_two)
    norm_num at hbig hx
    linarith
  | fin s m =>
    obtain ⟨-, -, -, hbest⟩ := h
    rw [← hy] at hnear
    exact (hbest _ hyfin).1.trans hnear

end Sys2Proof.Machine
end

section
/-!
SUPPORT. The increment of an LFO: products and quotients stay between zero and a power of two, and keep the order of
their operands, so the increment of parameters in range is between zero and the greatest the settings give (R272).
-/

namespace Sys2Proof.Machine

open Config
open F hiding neg_neg

/-! ## Values between zero and a power of two -/

/-- A finite value between zero and a power of two. -/
def UpToPow (b : ℤ) (x : F) : Prop := x.isFinite = true ∧ 0 ≤ toRat x ∧ toRat x ≤ 2 ^ b

theorem BetweenPow.upToPow {a b : ℤ} {x : F} (h : BetweenPow a b x) : UpToPow b x := by
  obtain ⟨hfin, hlo, hhi⟩ := h
  exact ⟨hfin, (zpow_pos two_pos a).le.trans hlo, hhi⟩

theorem UpToPow.of_le {b : ℤ} {x y : F} (h : UpToPow b y) (hlo : F.le F.zero x = true) (hle : F.le x y = true) :
    UpToPow b x := by
  obtain ⟨hy, -, hhi⟩ := h
  have hx := isFinite_of_between rfl hy hlo hle
  rw [le_iff_toRat rfl hx, toRat_zero] at hlo
  exact ⟨hx, hlo, ((le_iff_toRat hx hy).mp hle).trans hhi⟩

theorem UpToPow.mono {b c : ℤ} {x : F} (h : UpToPow b x) (hbc : b ≤ c) : UpToPow c x := by
  obtain ⟨hfin, hlo, hhi⟩ := h
  exact ⟨hfin, hlo, hhi.trans (zpow_le_zpow_right₀ one_le_two hbc)⟩

/-- A result rounded from between zero and a power of two. -/
theorem UpToPow.of_respects {x : ℚ} {r : F} {b : ℤ} (h : Respects x r) (hb : b ∈ Set.Icc (-126) 127) (h0 : 0 ≤ x)
    (h1 : x ≤ 2 ^ b) : UpToPow b r := by
  obtain ⟨hi, hhi, hval⟩ := exists_toRat_eq_zpow hb.1 hb.2
  rw [← hval] at h1
  rw [UpToPow, ← hval, ← toRat_zero]
  exact h.between rfl hhi (by rwa [toRat_zero]) h1

/-- `*` (R18). -/
theorem UpToPow.mul {b d : ℤ} {x y : F} (hx : UpToPow b x) (hy : UpToPow d y) (hb : b + d ∈ Set.Icc (-126) 127) :
    UpToPow (b + d) (F.mul x y) := by
  obtain ⟨hxfin, hx0, hxhi⟩ := hx
  obtain ⟨hyfin, hy0, hyhi⟩ := hy
  refine .of_respects (mul_respects hxfin hyfin) hb (mul_nonneg hx0 hy0) ?_
  rw [zpow_add₀ two_ne_zero]
  exact mul_le_mul hxhi hyhi hy0 (by positivity)

/-- `/` by a value that is not near zero (R18). -/
theorem UpToPow.div {b c d : ℤ} {x y : F} (hx : UpToPow b x) (hy : BetweenPow c d y)
    (hb : b - c ∈ Set.Icc (-126) 127) : UpToPow (b - c) (F.div x y) := by
  obtain ⟨hxfin, hx0, hxhi⟩ := hx
  obtain ⟨hyfin, hylo, -⟩ := hy
  have hpow : (0 : ℚ) < 2 ^ c := zpow_pos two_pos c
  have hy0 : 0 < toRat y := hpow.trans_le hylo
  refine .of_respects (div_respects hxfin hyfin hy0.ne') hb (div_nonneg hx0 hy0.le) ?_
  rw [zpow_sub₀ two_ne_zero]
  exact div_le_div₀ (by positivity) hxhi hpow hylo

/-- A product of values not negative grows with both factors. -/
theorem UpToPow.mul_mono {a b c d : ℤ} {x y x' y' : F} (hx : UpToPow a x) (hy : UpToPow b y) (hx' : UpToPow c x')
    (hy' : UpToPow d y') (hxx' : F.le x x' = true) (hyy' : F.le y y' = true) :
    F.le (F.mul x y) (F.mul x' y') = true := by
  obtain ⟨hxfin, hx0, -⟩ := hx
  obtain ⟨hyfin, hy0, -⟩ := hy
  obtain ⟨hxfin', hx0', -⟩ := hx'
  obtain ⟨hyfin', -, -⟩ := hy'
  rw [le_iff_toRat hxfin hxfin'] at hxx'
  rw [le_iff_toRat hyfin hyfin'] at hyy'
  exact (mul_isRounded hxfin hyfin).mono (mul_isRounded hxfin' hyfin') (mul_nonneg hx0 hy0)
    (mul_le_mul hxx' hyy' hy0 hx0')

/-- A quotient of values not negative grows with its dividend and falls with its divisor. -/
theorem UpToPow.div_mono {a b c d e f : ℤ} {x y x' y' : F} (hx : UpToPow a x) (hx' : UpToPow b x')
    (hy : BetweenPow c d y) (hy' : BetweenPow e f y') (hxx' : F.le x x' = true) (hyy' : F.le y' y = true) :
    F.le (F.div x y) (F.div x' y') = true := by
  obtain ⟨hxfin, hx0, -⟩ := hx
  obtain ⟨hxfin', hx0', -⟩ := hx'
  obtain ⟨hyfin, hylo, -⟩ := hy
  obtain ⟨hyfin', hylo', -⟩ := hy'
  have hy0 : 0 < toRat y := (zpow_pos two_pos c).trans_le hylo
  have hy0' : 0 < toRat y' := (zpow_pos two_pos e).trans_le hylo'
  rw [le_iff_toRat hxfin hxfin'] at hxx'
  rw [le_iff_toRat hyfin' hyfin] at hyy'
  exact (div_isRounded hxfin hyfin hy0.ne').mono (div_isRounded hxfin' hyfin' hy0'.ne') (div_nonneg hx0 hy0.le)
    (div_le_div₀ hx0' hxx' hy0' hyy')

/-! ## The greatest increment (R272) -/

theorem two30_betweenPow : BetweenPow 30 30 (F.lit (2 ^ 30) 1) := by
  have hval : toRat (F.lit (2 ^ 30) 1) = 2 ^ (30 : ℤ) :=
    toRat_of_pattern 0x4E800000 (by decide) (by norm_num [F.magVal])
  exact ⟨rfl, hval.ge, hval.le⟩

theorem sixty_betweenPow : BetweenPow 5 6 (F.lit 60 1) := by
  obtain ⟨hfin, hval⟩ := toRat_lit (n := 60) (by norm_num)
  exact ⟨hfin, by rw [hval]; norm_num, by rw [hval]; norm_num⟩

/-- A finite value inside a row that lies between zero and a power of two. -/
theorem UpToPow.of_inRow {r : Range} {x hi : F} {b : ℤ} (h : inRow r x = true) (hr : rowWithin F.zero hi r = true)
    (hhi : UpToPow b hi) : UpToPow b x := by
  simp only [rowWithin, inRow, Bool.and_eq_true] at hr h
  obtain ⟨hrlo, hrhi⟩ := hr
  obtain ⟨⟨-, hxlo⟩, hxhi⟩ := h
  exact hhi.of_le (F.le_trans' hrlo hxlo) (F.le_trans' hxhi hrhi)

/-- The bounds of a proper row are inside it. -/
theorem bounds_inRow {r : Range} (h : rowProper r = true) : inRow r r.lo = true ∧ inRow r r.hi = true := by
  simp only [rowProper, Bool.and_eq_true] at h
  obtain ⟨⟨⟨hlo, hhi⟩, hord⟩, -⟩ := h
  obtain ⟨hlonan, hhinan⟩ := ne_nan_of_le hord
  simp [inRow, hlo, hhi, hord, le_refl_of _ hlonan, le_refl_of _ hhinan]

/-- Nothing inside a row is above its upper bound, or below its lower one. -/
theorem inRow_between {r : Range} {x : F} (h : inRow r x = true) : F.le r.lo x = true ∧ F.le x r.hi = true := by
  simp only [inRow, Bool.and_eq_true] at h
  obtain ⟨⟨-, hlo⟩, hhi⟩ := h
  exact ⟨hlo, hhi⟩

/-- The increment of the highest free rate, at the lowest sample rate. -/
def freeIncMax (T : Settings) : F := F.div T.lfoRate.hi T.sysFs.lo

/-- The increment of the highest synced rate, at the lowest sample rate. -/
def syncedIncMax (T : Settings) : F :=
  F.div (F.mul (F.div T.lfoBpm.hi (F.lit 60 1)) T.lfoDiv.hi) T.sysFs.lo

theorem incMax_eq (T : Settings) :
    incMax T = if F.le (freeIncMax T) (syncedIncMax T) then syncedIncMax T else freeIncMax T := rfl

section
variable {T : Settings} (hT : SettingsOk T)
include hT

theorem rate_upToPow {x : F} (h : inRange T .lfoRate x = true) : UpToPow 60 x :=
  .of_inRow h hT.lfoRate two60_betweenPow.upToPow

theorem sysFs_betweenPow {x : F} (h : inRange T .sysFs x = true) : BetweenPow 0 60 x :=
  .of_inRow h hT.rate one_betweenPow two60_betweenPow

/-- The synced rate of a tempo and a division in range. -/
theorem syncedRate_upToPow {bpm dv : F} (hbpm : inRange T .lfoBpm bpm = true) (hdiv : inRange T .lfoDiv dv = true) :
    UpToPow 30 bpm ∧ UpToPow 30 dv ∧ UpToPow 60 (F.mul (F.div bpm (F.lit 60 1)) dv) := by
  obtain ⟨hrowb, hrowd⟩ := hT.tempo
  have hb : UpToPow 30 bpm := .of_inRow hbpm hrowb two30_betweenPow.upToPow
  have hd : UpToPow 30 dv := .of_inRow hdiv hrowd two30_betweenPow.upToPow
  have hrate : UpToPow 55 _ := (hb.div sixty_betweenPow (by norm_num)).mul hd (by norm_num)
  exact ⟨hb, hd, hrate.mono (by norm_num)⟩

/-- The rates at the upper bounds, and the lowest sample rate. -/
theorem rateBounds_upToPow : UpToPow 60 T.lfoRate.hi ∧
    UpToPow 60 (F.mul (F.div T.lfoBpm.hi (F.lit 60 1)) T.lfoDiv.hi) ∧ BetweenPow 0 60 T.sysFs.lo := by
  obtain ⟨hfs, -⟩ := bounds_inRow (hT.rows .sysFs)
  obtain ⟨-, hrate⟩ := bounds_inRow (hT.rows .lfoRate)
  obtain ⟨-, hbpm⟩ := bounds_inRow (hT.rows .lfoBpm)
  obtain ⟨-, hdiv⟩ := bounds_inRow (hT.rows .lfoDiv)
  obtain ⟨-, -, hsynced⟩ := syncedRate_upToPow hT hbpm hdiv
  exact ⟨rate_upToPow hT hrate, hsynced, sysFs_betweenPow hT hfs⟩

/-- The greatest increment does not overflow, and is above neither of the two it is the greater of. -/
theorem incMax_spec : UpToPow 60 (incMax T) ∧ F.le (freeIncMax T) (incMax T) = true ∧
    F.le (syncedIncMax T) (incMax T) = true := by
  obtain ⟨hrate, hsynced, hfs⟩ := rateBounds_upToPow hT
  have hfreeInc : UpToPow 60 (freeIncMax T) := hrate.div hfs (by norm_num)
  have hsyncedInc : UpToPow 60 (syncedIncMax T) := hsynced.div hfs (by norm_num)
  have ⟨hf, _, _⟩ := hfreeInc
  have ⟨hs, _, _⟩ := hsyncedInc
  rw [incMax_eq]
  split_ifs with h
  · exact ⟨hsyncedInc, h, (le_iff_toRat hs hs).mpr le_rfl⟩
  · rw [le_iff_toRat hf hs] at h
    exact ⟨hfreeInc, (le_iff_toRat hf hf).mpr le_rfl, (le_iff_toRat hs hf).mpr (le_of_not_ge h)⟩

/-- What is between zero and the greatest increment is what an increment may be. -/
theorem inRow_incMax_iff (x : F) :
    inRow ⟨F.zero, incMax T, F.zero⟩ x = true ↔ F.le F.zero x = true ∧ F.le x (incMax T) = true := by
  obtain ⟨hmax, -⟩ := incMax_spec hT
  simp only [inRow, Bool.and_eq_true, and_assoc]
  exact and_iff_right_of_imp fun ⟨hlo, hle⟩ => (hmax.of_le hlo hle).1

variable {fs : F} (hfs : inRange T .sysFs fs = true)
include hfs

/-- The increment of a rate at a sample rate in range is at least zero, and not above that of any higher rate at the
lowest sample rate. -/
theorem increment_between {x y : F} (hx : UpToPow 60 x) (hy : UpToPow 60 y) (hxy : F.le x y = true) :
    F.le F.zero (F.div x fs) = true ∧ F.le (F.div x fs) (F.div y T.sysFs.lo) = true := by
  obtain ⟨hlow, -⟩ := bounds_inRow (hT.rows .sysFs)
  obtain ⟨hfin, hpos, -⟩ := hx.div (sysFs_betweenPow hT hfs) (by norm_num)
  exact ⟨by rwa [le_iff_toRat rfl hfin, toRat_zero],
    hx.div_mono hy (sysFs_betweenPow hT hfs) (sysFs_betweenPow hT hlow) hxy (inRow_between hfs).1⟩

/-- The increment of an LFO with its parameters in range is between zero and the greatest (R272). -/
theorem lfoRate_increment {l : LfoState} (hl : l.InRange T) :
    inRow ⟨F.zero, incMax T, F.zero⟩ (F.div (lfoRate l) fs) = true := by
  obtain ⟨hrate, -, hbpm, hdiv⟩ := hl
  obtain ⟨hrateTop, hsyncedTop, -⟩ := rateBounds_upToPow hT
  obtain ⟨-, hfreeMax, hsyncedMax⟩ := incMax_spec hT
  rw [inRow_incMax_iff hT, lfoRate]
  split_ifs
  · obtain ⟨hb, hd, hsynced⟩ := syncedRate_upToPow hT hbpm hdiv
    obtain ⟨-, hbpmTop⟩ := bounds_inRow (hT.rows .lfoBpm)
    obtain ⟨-, hdivTop⟩ := bounds_inRow (hT.rows .lfoDiv)
    obtain ⟨hbTop, hdTop, -⟩ := syncedRate_upToPow hT hbpmTop hdivTop
    have hminutes := hb.div_mono hbTop sixty_betweenPow sixty_betweenPow (inRow_between hbpm).2
      (le_refl_of _ (by decide))
    have hle := (hb.div sixty_betweenPow (by norm_num)).mul_mono hd (hbTop.div sixty_betweenPow (by norm_num)) hdTop
      hminutes (inRow_between hdiv).2
    obtain ⟨hpos, htop⟩ := increment_between hT hfs hsynced hsyncedTop hle
    exact ⟨hpos, F.le_trans' htop hsyncedMax⟩
  · obtain ⟨hpos, htop⟩ := increment_between hT hfs (rate_upToPow hT hrate) hrateTop (inRow_between hrate).2
    exact ⟨hpos, F.le_trans' htop hfreeMax⟩

end

end Sys2Proof.Machine
end

section
/-!
SUPPORT. One LFO: its phase, increment and held values stay in bounds through the lazy recomputation, an advance and
the rest of a block (R272, R283, R285, R286, R291).
-/

namespace Sys2Proof.Machine

open Config
open F hiding neg_neg

/-! ## One advance (R283, R286) -/

/-- A phase is a finite value with its sign bit clear. -/
theorem exists_fin_of_inPhase {p : F} (h : inPhase p = true) : ∃ m : Fin magInf, p = .fin false m := by
  obtain ⟨s, m, rfl⟩ := (isFinite_iff p).mp (inPhase_isFinite h)
  simp only [inPhase, F.signBit, Bool.and_eq_true, Bool.not_eq_true'] at h
  obtain ⟨⟨rfl, -⟩, -⟩ := h
  exact ⟨m, rfl⟩

/-- A phase and an increment that is not negative add up with the sign bit clear. -/
theorem signBit_add_inPhase {p y : F} (hp : inPhase p = true) (hy : y.isFinite = true) (h0 : 0 ≤ toRat y) :
    (F.add p y).signBit = false := by
  obtain ⟨m, rfl⟩ := exists_fin_of_inPhase hp
  obtain ⟨t, n, rfl⟩ := (isFinite_iff y).mp hy
  cases t with
  | false => rw [F.add, if_pos rfl, signBit_round]
  | true =>
    -- not negative with its sign set: a zero, and adding it is subtracting the zero with its sign clear
    refine signBit_sub_same_sign (s := false) (k := n) ?_
    rw [toRat_negative] at h0
    rw [toRat_pos, toRat_pos]
    exact (neg_nonneg.mp h0).trans (by positivity)

/-- The sum of a phase and an increment is a phase where it does not reach 1.0. -/
theorem add_inPhase {p y : F} (hp : inPhase p = true) (hy : y.isFinite = true) (h0 : F.le F.zero y = true)
    (hone : ¬ F.ge (F.add p y) F.one = true) : inPhase (F.add p y) = true := by
  obtain ⟨hp0, -⟩ := toRat_of_inPhase hp
  rw [le_iff_toRat rfl hy, toRat_zero] at h0
  obtain ⟨hnan, hside⟩ := add_respects (inPhase_isFinite hp) hy
  have hzero : F.le F.zero (F.add p y) = true := (hside F.zero rfl).2 (by rw [toRat_zero]; positivity)
  have hbelow : F.lt (F.add p y) F.one = true := lt_of_not_ge hnan (by decide) hone
  simp only [inPhase, signBit_add_inPhase hp hy h0, hzero, hbelow, Bool.not_false, Bool.and_self]

section
variable {T : Settings} {l : LfoState} (h : l.Bounded T)
include h

theorem LfoState.Bounded.inc_nonneg : l.inc.isFinite = true ∧ F.le F.zero l.inc = true := by
  obtain ⟨-, hinc, -⟩ := h
  simp only [inRow, Bool.and_eq_true] at hinc
  obtain ⟨hfinite, -⟩ := hinc
  exact hfinite

/-- A wrap holds what was the target, and draws the next (R286). -/
theorem lfoWrap_bounded (P : Params) : (lfoWrap P l).Bounded T := by
  obtain ⟨hphase, hinc, hprev, hnext⟩ := h
  unfold lfoWrap
  split_ifs
  · exact ⟨hphase, hinc, hnext, rngBipolar_inDraw P _⟩
  · exact ⟨hphase, hinc, hprev, hnext⟩

/-- Any phase may stand in place of the phase. -/
theorem LfoState.Bounded.withPhase {p : F} (hp : inPhase p = true) : LfoState.Bounded T { l with phase := p } := by
  obtain ⟨-, hinc, hprev, hnext⟩ := h
  exact ⟨hp, hinc, hprev, hnext⟩

/-- An advance keeps the bounds: the phase wraps where it reaches 1.0. -/
theorem lfoAdvance1_bounded (P : Params) : (lfoAdvance1 P l).Bounded T := by
  have ⟨hphase, _⟩ := h
  obtain ⟨hfin, hpos⟩ := h.inc_nonneg
  unfold lfoAdvance1
  split_ifs with hone
  · exact (lfoWrap_bounded h P).withPhase (wrap01_add_inPhase hphase hfin)
  · exact h.withPhase (add_inPhase hphase hfin hpos hone)

/-- The stored value is no part of the bounds. -/
theorem LfoState.Bounded.withLast (y : F) : LfoState.Bounded T { l with last := y } := by
  obtain ⟨hphase, hinc, hprev, hnext⟩ := h
  exact ⟨hphase, hinc, hprev, hnext⟩

theorem lfoStep_bounded (P : Params) : (lfoStep P l).Bounded T := lfoAdvance1_bounded (h.withLast _) P

end

/-! ## The commands (R272, R275, R285, R288, R289) -/

/-- The count of the samples left in a block converts to at most `2^16` (R285). -/
theorem ofNat_upToPow {m : Nat} (hm : m ≤ 2 ^ 16) : UpToPow 16 (F.ofNat m) := by
  obtain ⟨hfin, hval⟩ := toRat_lit (hm.trans (by norm_num : 2 ^ 16 ≤ 2 ^ 24))
  refine ⟨hfin, ?_, ?_⟩ <;> rw [F.ofNat, hval]
  · exact m.cast_nonneg
  · exact_mod_cast hm

theorem LfoState.Bounded.clear {T : Settings} {l : LfoState} (h : l.Bounded T) : l.clear.Bounded T := by
  obtain ⟨-, hinc, -⟩ := h
  have hdraw : inDraw F.zero = true := by decide
  exact ⟨(by decide : inPhase F.zero = true), hinc, hdraw, hdraw⟩

section
variable {T : Settings} (hT : SettingsOk T) {l : LfoState} (h : l.Bounded T)
include hT h

/-- The rest of a block keeps the bounds: the increment times the count of its samples does not overflow. -/
theorem lfoSkip_bounded (P : Params) {m : Nat} (hm : m ≤ 2 ^ 16) : (lfoSkip P m l).Bounded T := by
  unfold lfoSkip
  split_ifs
  · exact Function.Iterate.rec (LfoState.Bounded T) h (fun _ hk => lfoAdvance1_bounded hk P) m
  · have ⟨hphase, hinc, _⟩ := h
    obtain ⟨hmax, -⟩ := incMax_spec hT
    obtain ⟨hpos, hle⟩ := (inRow_incMax_iff hT l.inc).mp hinc
    obtain ⟨hfin, -⟩ := (ofNat_upToPow hm).mul (hmax.of_le hpos hle) (by norm_num)
    exact h.withPhase (wrap01_add_inPhase hphase hfin)

variable {fs : F} (hfs : inRange T .sysFs fs = true) (hl : l.InRange T)
include hfs hl

/-- A recomputed increment is one the settings give (R272). -/
theorem lfoFresh_bounded : (lfoFresh fs l).Bounded T := by
  have ⟨hphase, _, hheld⟩ := h
  unfold lfoFresh
  split_ifs
  · exact ⟨hphase, lfoRate_increment hT hfs hl, hheld⟩
  · exact h

theorem lfoProcess_bounded (P : Params) : (lfoProcess P fs l).Bounded T :=
  lfoStep_bounded (lfoFresh_bounded hT h hfs hl) P

theorem lfoProcessBlock_bounded (P : Params) {count : Nat} (hcount : count ≤ 2 ^ 16) :
    (lfoProcessBlock P fs count l).Bounded T := by
  unfold lfoProcessBlock
  split_ifs
  · exact h
  · exact lfoSkip_bounded hT (lfoProcess_bounded hT h hfs hl P) P (by omega)

/-- LFO commands keep their LFO bounded. -/
theorem lfoEffect_bounded (i : Instr) : (lfoEffect T fs i l).1.Bounded T := by
  cases i with
  | lfoReset _ => exact h.clear
  | lfoProcess _ => exact lfoProcess_bounded hT h hfs hl params
  | lfoProcessBlock _ count => exact lfoProcessBlock_bounded hT h hfs hl params count.isLt.le
  | _ => exact h

end

end Sys2Proof.Machine
end

section
/-!
SUPPORT. The waveform of an LFO in rounded arithmetic lies in `[-1, 1]` (R273, R274, R291). The one delicate bound is
that of the sine's `u = x * (1.0 - x)`: the rounded difference may make the product pass `1/4`, but by less than half
the distance to the next value, so it is rounded back.
-/

namespace Sys2Proof.Machine

open Config
open F hiding neg_neg

/-! ## Values between two whole numbers -/

/-- A finite value between two whole numbers. -/
def Within (a b : ℤ) (x : F) : Prop := x.isFinite = true ∧ a ≤ toRat x ∧ toRat x ≤ b

theorem Within.mono {a b c d : ℤ} {x : F} (h : Within a b x) (hca : c ≤ a) (hbd : b ≤ d) : Within c d x := by
  obtain ⟨hx, ha, hb⟩ := h
  exact ⟨hx, (Int.cast_le.mpr hca).trans ha, hb.trans (Int.cast_le.mpr hbd)⟩

theorem Within.neg {a b : ℤ} {x : F} (h : Within a b x) : Within (-b) (-a) (F.neg x) := by
  obtain ⟨hx, ha, hb⟩ := h
  rw [Within, isFinite_neg, toRat_neg, Int.cast_neg, Int.cast_neg]
  exact ⟨hx, neg_le_neg hb, neg_le_neg ha⟩

/-- A result rounded from between two whole numbers of 24 bits. -/
theorem Within.of_respects {x : ℚ} {r : F} {a b : ℤ} (h : Respects x r) (ha : a.natAbs ≤ 2 ^ 24)
    (hb : b.natAbs ≤ 2 ^ 24) (h1 : a ≤ x) (h2 : x ≤ b) : Within a b r := by
  obtain ⟨lo, hlo, hloval⟩ := exists_toRat_eq_int ha
  obtain ⟨hi, hhi, hhival⟩ := exists_toRat_eq_int hb
  rw [← hloval] at h1
  rw [← hhival] at h2
  rw [Within, ← hloval, ← hhival]
  exact h.between hlo hhi h1 h2

/-- A whole number times a value, from bounds on the exact product. -/
theorem lit_mul_within {x : F} (hx : x.isFinite = true) {n : Nat} {a b : ℤ} (hn : n ≤ 2 ^ 24)
    (ha : a.natAbs ≤ 2 ^ 24) (hb : b.natAbs ≤ 2 ^ 24) (h1 : a ≤ n * toRat x) (h2 : n * toRat x ≤ b) :
    Within a b (F.mul (F.lit n 1) x) := by
  obtain ⟨hfin, hval⟩ := toRat_lit hn
  exact .of_respects (mul_respects hfin hx) ha hb (by rwa [hval]) (by rwa [hval])

/-- A whole number less a value between `a` and `b`. -/
theorem Within.lit_sub {a b : ℤ} {x : F} (h : Within a b x) {n : Nat} (hn : n ≤ 2 ^ 24)
    (ha : (n - b).natAbs ≤ 2 ^ 24) (hb : (n - a).natAbs ≤ 2 ^ 24) : Within (n - b) (n - a) (F.sub (F.lit n 1) x) := by
  obtain ⟨hx, hxa, hxb⟩ := h
  obtain ⟨hfin, hval⟩ := toRat_lit hn
  refine .of_respects (sub_respects hfin hx) ha hb ?_ ?_ <;> rw [hval, Int.cast_sub, Int.cast_natCast] <;> linarith

/-- A value between `a` and `b` less a whole number. -/
theorem Within.sub_lit {a b : ℤ} {x : F} (h : Within a b x) {n : Nat} (hn : n ≤ 2 ^ 24)
    (ha : (a - n).natAbs ≤ 2 ^ 24) (hb : (b - n).natAbs ≤ 2 ^ 24) : Within (a - n) (b - n) (F.sub x (F.lit n 1)) := by
  obtain ⟨hx, hxa, hxb⟩ := h
  obtain ⟨hfin, hval⟩ := toRat_lit hn
  refine .of_respects (sub_respects hx hfin) ha hb ?_ ?_ <;> rw [hval, Int.cast_sub, Int.cast_natCast] <;> linarith

/-! ## The sine (R274) -/

theorem toRat_quarter : toRat (F.lit 1 4) = 1 / 4 := toRat_of_pattern 0x3E800000 (by decide) (by norm_num [F.magVal])

/-- No value lies between `1/4` and `1/4 + 2^-25`. -/
theorem toRat_above_quarter {x : F} (h : 1 / 4 < toRat x) : 1 / 4 + 1 / 2 ^ 25 ≤ toRat x := by
  cases x with
  | nan | inf _ => norm_num [toRat] at h
  | fin s m =>
    have hpos : (0 : ℚ) ≤ magVal m.val / 2 ^ 149 := by positivity
    cases s with
    | true => rw [toRat_negative] at h; linarith
    | false =>
      rw [toRat_pos, lt_div_iff₀ two149_pos] at h
      have hquarter : magVal 0x3E800000 < magVal m.val := by
        rw [show magVal 0x3E800000 = 2 ^ 147 by decide]
        exact_mod_cast (by linarith : (2 : ℚ) ^ 147 < magVal m.val)
      have hnext : magVal 0x3E800001 ≤ magVal m.val := by
        rw [magVal_lt_iff] at hquarter
        rwa [magVal_le_iff]
      rw [show magVal 0x3E800001 = 2 ^ 147 + 2 ^ 124 by decide] at hnext
      have hcast : (2 : ℚ) ^ 147 + 2 ^ 124 ≤ magVal m.val := by exact_mod_cast hnext
      rw [toRat_pos, le_div_iff₀ two149_pos]
      linarith

/-- What passes `1/4` by less than half the distance to the next value is not rounded above `1/4`. -/
theorem RoundsTo.le_quarter {x : ℚ} {r : F} (h : RoundsTo x r) (hx : x < 1 / 4 + 1 / 2 ^ 26) :
    toRat r ≤ 1 / 4 := by
  by_contra hgt
  have habove := toRat_above_quarter (not_le.mp hgt)
  cases r with
  | nan | inf _ => norm_num [toRat] at hgt
  | fin s m =>
    obtain ⟨-, -, -, hbest⟩ := h
    obtain ⟨hnear, -⟩ := hbest (F.lit 1 4) (by decide)
    rw [toRat_quarter] at hnear
    have hfar := (le_abs_self _).trans hnear
    rcases abs_cases (1 / 4 - x) with ⟨habs, -⟩ | ⟨habs, -⟩ <;> linarith

/-- `u = x * (1.0 - x)` is at most `1/4`: below `1/2` the difference is rounded by at most `2^-25`, from there on by at
most `2^-26`, and so the product passes `1/4` by less than `2^-26`. -/
theorem bhaskaraArg_bounds {x : F} (h : Within 0 1 x) :
    (bhaskaraArg x).isFinite = true ∧ 0 ≤ toRat (bhaskaraArg x) ∧ toRat (bhaskaraArg x) ≤ 1 / 4 := by
  have ⟨hx, hx0, hx1⟩ := h
  obtain ⟨hy, hy0, hy1⟩ : Within 0 1 (F.sub F.one x) :=
    (h.lit_sub (n := 1) (by norm_num) (by norm_num) (by norm_num)).mono (by norm_num) (by norm_num)
  have hdiff := (sub_isRounded (a := F.one) rfl hx).roundsTo
  rw [toRat_one] at hdiff
  push_cast at hx0 hx1 hy0 hy1
  have hprod := mul_isRounded hx hy
  have hsmall : toRat x * toRat (F.sub F.one x) < 1 / 4 + 1 / 2 ^ 26 := by
    have hsquare := sq_nonneg (toRat x - 1 / 2)
    rcases lt_or_ge (toRat x) (1 / 2) with hhalf | hhalf
    · have herr := (abs_le.mp (hdiff.error_le (j := 24) (by norm_num) (by linarith) (by linarith))).2
      have := mul_le_mul_of_nonneg_left herr hx0
      linarith
    · have herr := (abs_le.mp (hdiff.error_le (j := 25) (by norm_num) (by linarith) (by linarith))).2
      have := mul_le_mul_of_nonneg_left herr hx0
      nlinarith
  have hfin : (bhaskaraArg x).isFinite = true := hprod.roundsTo.isFinite (by
    rw [abs_of_nonneg (mul_nonneg hx0 hy0)]
    exact hsmall.trans (by norm_num))
  refine ⟨hfin, ?_, hprod.roundsTo.le_quarter hsmall⟩
  have hside : F.le F.zero (bhaskaraArg x) = true :=
    (hprod.respects.2 F.zero rfl).2 (toRat_zero.le.trans (mul_nonneg hx0 hy0))
  rwa [le_iff_toRat rfl hfin, toRat_zero] at hside

/-- `bhaskara` maps `[0, 1]` to `[0, 1]`: its dividend is at most 4.0, its divisor at least (R274). -/
theorem bhaskara_within {x : F} (h : Within 0 1 x) : Within 0 1 (bhaskara x) := by
  obtain ⟨hu, hu0, hu1⟩ := bhaskaraArg_bounds h
  have hfour : Within 0 1 (F.mul (F.lit 4 1) (bhaskaraArg x)) := by
    refine lit_mul_within hu ?_ ?_ ?_ ?_ ?_ <;> norm_num <;> linarith
  obtain ⟨hn, hn0, hn4⟩ : Within 0 4 (F.mul (F.lit 16 1) (bhaskaraArg x)) := by
    refine lit_mul_within hu ?_ ?_ ?_ ?_ ?_ <;> norm_num <;> linarith
  obtain ⟨hd, hd4, -⟩ := hfour.lit_sub (n := 5) (by norm_num) (by norm_num) (by norm_num)
  push_cast at hn0 hn4 hd4
  have hdpos : 0 < toRat (F.sub (F.lit 5 1) (F.mul (F.lit 4 1) (bhaskaraArg x))) := by linarith
  refine .of_respects (div_respects hn hd hdpos.ne') (by norm_num) (by norm_num) ?_ ?_ <;> push_cast
  · exact div_nonneg hn0 hdpos.le
  · exact (div_le_one hdpos).mpr (by linarith)

/-! ## The waveforms (R273) -/

theorem toRat_half : toRat (F.lit 1 2) = 1 / 2 := toRat_of_pattern 0x3F000000 (by decide) (by norm_num [F.magVal])

theorem toRat_threeQuarters : toRat (F.lit 3 4) = 3 / 4 :=
  toRat_of_pattern 0x3F400000 (by decide) (by norm_num [F.magVal])

/-- A draw is in `[-1, 1]` (R153). -/
theorem within_of_inDraw {x : F} (h : inDraw x = true) : Within (-1) 1 x := by
  simp only [inDraw, Bool.and_eq_true] at h
  obtain ⟨hlo, hhi⟩ := h
  have hx := isFinite_of_between rfl rfl hlo (le_of_lt hhi)
  rw [le_iff_toRat rfl hx, toRat_neg, toRat_one] at hlo
  rw [lt_iff_toRat hx rfl, toRat_one] at hhi
  exact ⟨hx, by push_cast; exact hlo, by push_cast; exact hhi.le⟩

/-- A phase is a multiplier (R21, R49). -/
theorem inMultiplier_of_inPhase {p : F} (h : inPhase p = true) : inMultiplier p = true := by
  simp only [inPhase, inMultiplier, Bool.and_eq_true] at h ⊢
  obtain ⟨⟨-, hlo⟩, hhi⟩ := h
  exact ⟨hlo, hhi⟩

/-- Sample-and-Hold interpolates from the held value to the target: a segment, as an envelope's (R224, R273). -/
theorem sampleHold_within {p a b : F} (hp : inPhase p = true) (ha : Within (-1) 1 a) (hb : Within (-1) 1 b) :
    Within (-1) 1 (F.add a (F.mul (F.sub b a) p)) := by
  have hseg : F.add a (F.mul (F.sub b a) p) = envSegment a p b := by rw [envSegment, F.mul_comm']
  obtain ⟨hafin, ha0, ha1⟩ := ha
  obtain ⟨hbfin, hb0, hb1⟩ := hb
  obtain ⟨hsub, -⟩ : Within (-2) 2 (F.sub b a) :=
    .of_respects (sub_respects hbfin hafin) (by norm_num) (by norm_num) (by push_cast at ha1 hb0 ⊢; linarith)
      (by push_cast at ha0 hb1 ⊢; linarith)
  obtain ⟨hdown, hup⟩ := envSegment_between (inMultiplier_of_inPhase hp) hafin hbfin hsub
  rw [hseg]
  rcases le_total (toRat a) (toRat b) with h | h
  · obtain ⟨hlo, hhi⟩ := hdown ((le_iff_toRat hafin hbfin).mpr h)
    have hfin := isFinite_of_between hafin hbfin hlo hhi
    exact ⟨hfin, ha0.trans ((le_iff_toRat hafin hfin).mp hlo), ((le_iff_toRat hfin hbfin).mp hhi).trans hb1⟩
  · obtain ⟨hlo, hhi⟩ := hup ((le_iff_toRat hbfin hafin).mpr h)
    have hfin := isFinite_of_between hbfin hafin hlo hhi
    exact ⟨hfin, hb0.trans ((le_iff_toRat hbfin hfin).mp hlo), ((le_iff_toRat hfin hafin).mp hhi).trans ha1⟩

section
variable {p : F} (hp : inPhase p = true)
include hp

/-- Twice a phase, by the half it is in. -/
theorem twice_within : Within 0 2 (F.mul (F.lit 2 1) p) ∧
    (F.lt p (F.lit 1 2) = true → Within 0 1 (F.mul (F.lit 2 1) p)) ∧
    (¬ F.lt p (F.lit 1 2) = true → Within 1 2 (F.mul (F.lit 2 1) p)) := by
  have hpfin := inPhase_isFinite hp
  obtain ⟨hp0, hp1⟩ := toRat_of_inPhase hp
  rw [lt_iff_toRat hpfin rfl, toRat_half]
  refine ⟨lit_mul_within hpfin ?_ ?_ ?_ ?_ ?_, fun _ => lit_mul_within hpfin ?_ ?_ ?_ ?_ ?_,
    fun _ => lit_mul_within hpfin ?_ ?_ ?_ ?_ ?_⟩ <;> norm_num <;> linarith

/-- The two halves of the sine (R274). -/
theorem sine_within : Within (-1) 1 (if F.lt p (F.lit 1 2) then bhaskara (F.mul (F.lit 2 1) p)
    else F.neg (bhaskara (F.sub (F.mul (F.lit 2 1) p) F.one))) := by
  obtain ⟨-, hfirst, hsecond⟩ := twice_within hp
  split_ifs with h
  · exact (bhaskara_within (hfirst h)).mono (by norm_num) le_rfl
  · have hx : Within 0 1 (F.sub (F.mul (F.lit 2 1) p) F.one) :=
      ((hsecond h).sub_lit (n := 1) (by norm_num) (by norm_num) (by norm_num)).mono (by norm_num) (by norm_num)
    exact (bhaskara_within hx).neg.mono (by norm_num) (by norm_num)

/-- The three lines of the triangle. -/
theorem triangle_within : Within (-1) 1 (if F.lt p (F.lit 1 4) then F.mul (F.lit 4 1) p
    else if F.lt p (F.lit 3 4) then F.sub (F.lit 2 1) (F.mul (F.lit 4 1) p)
    else F.sub (F.mul (F.lit 4 1) p) (F.lit 4 1)) := by
  have hpfin := inPhase_isFinite hp
  obtain ⟨hp0, hp1⟩ := toRat_of_inPhase hp
  have hquarter := lt_iff_toRat hpfin (y := F.lit 1 4) rfl
  have hthree := lt_iff_toRat hpfin (y := F.lit 3 4) rfl
  rw [toRat_quarter] at hquarter
  rw [toRat_threeQuarters] at hthree
  split_ifs with h1 h2
  · have := hquarter.mp h1
    have h4 : Within 0 1 (F.mul (F.lit 4 1) p) := by
      refine lit_mul_within hpfin ?_ ?_ ?_ ?_ ?_ <;> norm_num <;> linarith
    exact h4.mono (by norm_num) le_rfl
  · have := mt hquarter.mpr h1
    have := hthree.mp h2
    have h4 : Within 1 3 (F.mul (F.lit 4 1) p) := by
      refine lit_mul_within hpfin ?_ ?_ ?_ ?_ ?_ <;> norm_num <;> linarith
    exact (h4.lit_sub (n := 2) (by norm_num) (by norm_num) (by norm_num)).mono (by norm_num) (by norm_num)
  · have := mt hthree.mpr h2
    have h4 : Within 3 4 (F.mul (F.lit 4 1) p) := by
      refine lit_mul_within hpfin ?_ ?_ ?_ ?_ ?_ <;> norm_num <;> linarith
    exact (h4.sub_lit (n := 4) (by norm_num) (by norm_num) (by norm_num)).mono (by norm_num) (by norm_num)

/-- The two sawtooths. -/
theorem saw_within : Within (-1) 1 (F.sub (F.mul (F.lit 2 1) p) F.one) ∧
    Within (-1) 1 (F.sub F.one (F.mul (F.lit 2 1) p)) := by
  obtain ⟨h2, -, -⟩ := twice_within hp
  exact ⟨(h2.sub_lit (n := 1) (by norm_num) (by norm_num) (by norm_num)).mono (by norm_num) (by norm_num),
    (h2.lit_sub (n := 1) (by norm_num) (by norm_num) (by norm_num)).mono (by norm_num) (by norm_num)⟩

end

/-- The waveform value before the depth is in `[-1, 1]` (R273). -/
theorem lfoShape_within {T : Settings} {l : LfoState} (h : l.Bounded T) : Within (-1) 1 (lfoShape l) := by
  obtain ⟨hphase, -, hprev, hnext⟩ := h
  unfold lfoShape
  cases l.wave with
  | sine => exact sine_within hphase
  | triangle => exact triangle_within hphase
  | sawUp => exact (saw_within hphase).1
  | sawDown => exact (saw_within hphase).2
  | square =>
    have hone : Within 1 1 F.one := ⟨rfl, by simp [toRat_one], by simp [toRat_one]⟩
    dsimp only
    split_ifs
    · exact hone.mono (by norm_num) le_rfl
    · exact hone.neg.mono le_rfl (by norm_num)
  | sampleHold => exact sampleHold_within hphase (within_of_inDraw hprev) (within_of_inDraw hnext)

/-- A value in `[-1, 1]` times a depth lies between minus the depth and the depth (R291). -/
theorem mul_between_depth {x d : F} (hx : Within (-1) 1 x) (hd : d.isFinite = true) (h0 : F.le F.zero d = true) :
    F.le (F.neg d) (F.mul x d) = true ∧ F.le (F.mul x d) d = true := by
  obtain ⟨hxfin, hlo, hhi⟩ := hx
  rw [le_iff_toRat rfl hd, toRat_zero] at h0
  push_cast at hlo hhi
  obtain ⟨-, hside⟩ := mul_respects hxfin hd
  refine ⟨(hside _ ((isFinite_neg d).trans hd)).2 ?_, (hside d hd).1 ?_⟩
  · rw [toRat_neg]; nlinarith
  · nlinarith

/-- A depth in range is finite and not negative, at settings a machine may have (R277). -/
theorem depth_nonneg {T : Settings} (hT : SettingsOk T) {d : F} (h : inRange T .lfoDepth d = true) :
    d.isFinite = true ∧ F.le F.zero d = true := by
  simp only [inRange, inRow, Bool.and_eq_true] at h
  obtain ⟨⟨hfin, hlo⟩, -⟩ := h
  exact ⟨hfin, F.le_trans' hT.depth hlo⟩

/-- An output sample lies between minus the depth and the depth (R284, R291). -/
theorem lfoSample_between {T : Settings} (hT : SettingsOk T) {l : LfoState} (hl : l.InRange T) (h : l.Bounded T) :
    F.le (F.neg l.depth) (lfoSample l) = true ∧ F.le (lfoSample l) l.depth = true := by
  obtain ⟨-, hdepth, -⟩ := hl
  obtain ⟨hfin, h0⟩ := depth_nonneg hT hdepth
  exact mul_between_depth (lfoShape_within h) hfin h0

end Sys2Proof.Machine
end

section
/-!
SUPPORT. What an LFO's operations write, and the two ways a block agrees with single samples: a block of one sample
skips nothing (R285, R288), and in Sample-and-Hold the skipped samples are advances, one by one (R289).
-/

namespace Sys2Proof.Machine

open Config
open F hiding neg_neg

/-! ## What is written -/

/-- The lazy recomputation, field by field: the increment where the flag was set, and the flag cleared (R272). -/
theorem lfoFresh_eq (fs : F) (l : LfoState) : lfoFresh fs l =
    { l with inc := if l.dirty then F.div (lfoRate l) fs else l.inc, dirty := false } := by
  unfold lfoFresh lfoRecompute
  split_ifs with hdirty
  · rfl
  · rw [← Bool.eq_false_iff.mpr hdirty]

/-- A recomputed LFO is clean, so a second recomputation writes nothing. -/
@[simp] theorem lfoFresh_dirty (fs : F) (l : LfoState) : (lfoFresh fs l).dirty = false := by rw [lfoFresh_eq]

@[simp] theorem lfoFresh_wave (fs : F) (l : LfoState) : (lfoFresh fs l).wave = l.wave := by rw [lfoFresh_eq]

@[simp] theorem lfoFresh_depth (fs : F) (l : LfoState) : (lfoFresh fs l).depth = l.depth := by rw [lfoFresh_eq]

theorem lfoFresh_of_clean (fs : F) {l : LfoState} (h : l.dirty = false) : lfoFresh fs l = l := by
  rw [lfoFresh, h]
  rfl

/-- No waveform reads the increment or the flag (R273). -/
@[simp] theorem lfoSample_lfoFresh (fs : F) (l : LfoState) : lfoSample (lfoFresh fs l) = lfoSample l := by
  simp only [lfoFresh_eq, lfoSample, lfoShape]

/-- An advance, field by field: at a wrap the phase wraps, and in Sample-and-Hold the target is held and the next one
drawn (R283, R286). -/
theorem lfoAdvance1_eq (P : Params) (l : LfoState) : lfoAdvance1 P l =
    if F.ge (F.add l.phase l.inc) F.one then
      if l.wave = .sampleHold then
        { l with
          phase := F.wrap01 (F.add l.phase l.inc)
          shPrev := l.shNext
          rng := P.rngNext l.rng
          shNext := rngBipolar P (P.rngNext l.rng) }
      else { l with phase := F.wrap01 (F.add l.phase l.inc) }
    else { l with phase := F.add l.phase l.inc } := by
  unfold lfoAdvance1 lfoWrap
  split_ifs <;> rfl

@[simp] theorem lfoAdvance1_wave (P : Params) (l : LfoState) : (lfoAdvance1 P l).wave = l.wave := by
  rw [lfoAdvance1_eq]
  split_ifs <;> rfl

@[simp] theorem lfoAdvance1_dirty (P : Params) (l : LfoState) : (lfoAdvance1 P l).dirty = l.dirty := by
  rw [lfoAdvance1_eq]
  split_ifs <;> rfl

/-- An advance neither reads nor writes the stored value. -/
theorem lfoAdvance1_withLast (P : Params) (l : LfoState) (y : F) :
    lfoAdvance1 P { l with last := y } = { lfoAdvance1 P l with last := y } := by
  simp only [lfoAdvance1_eq]
  split_ifs <;> rfl

@[simp] theorem lfoProcess_wave (P : Params) (fs : F) (l : LfoState) : (lfoProcess P fs l).wave = l.wave := by
  rw [lfoProcess, lfoStep, lfoAdvance1_wave, lfoFresh_wave]

@[simp] theorem lfoProcess_dirty (P : Params) (fs : F) (l : LfoState) : (lfoProcess P fs l).dirty = false := by
  rw [lfoProcess, lfoStep, lfoAdvance1_dirty, lfoFresh_dirty]

/-! ## A block of one sample (R285, R288) -/

/-- A phase displaced by a zero does not change, whatever the sign of the zero. -/
theorem add_zero_inPhase {p : F} (h : inPhase p = true) (s : Bool) : F.add p (.fin s 0) = p := by
  obtain ⟨m, rfl⟩ := exists_fin_of_inPhase h
  have hzero : magVal (0 : Fin magInf).val = 0 := magVal_zero
  cases s with
  | false => rw [F.add, if_pos rfl, hzero, Nat.add_zero, round_magVal]
  | true =>
    simp only [F.add, hzero, Bool.false_eq_true, if_false]
    split_ifs with hm hlt
    · rw [show m = 0 from Fin.ext (magVal_eq_zero m.val hm)]
      rfl
    · rw [Nat.sub_zero, round_magVal]
    · exact absurd (Nat.pos_of_ne_zero hm) hlt

/-- Only the zeros have the value zero. -/
theorem eq_zero_of_toRat {s : Bool} {k : Fin magInf} (h : toRat (.fin s k) = 0) : k = 0 := by
  have hmag : magVal k.val = 0 := by cases s <;> simpa [toRat] using h
  exact Fin.ext (magVal_eq_zero k.val hmag)

/-- A phase does not change when it is wrapped: its floor is a zero (R20). -/
theorem wrap01_of_inPhase {p : F} (h : inPhase p = true) : F.wrap01 p = p := by
  obtain ⟨hp0, hp1⟩ := toRat_of_inPhase h
  obtain ⟨m, rfl⟩ := exists_fin_of_inPhase h
  obtain ⟨k, hk, hval⟩ := floor_fin false m
  rw [Int.floor_eq_zero_iff.mpr ⟨hp0, hp1⟩, Int.cast_zero] at hval
  obtain rfl := eq_zero_of_toRat hval
  have hsub : F.sub (.fin false m) (F.floor (.fin false m)) = .fin false m := by
    rw [hk]
    exact add_zero_inPhase h true
  simp only [inPhase, Bool.and_eq_true] at h
  obtain ⟨-, hlt⟩ := h
  rw [F.wrap01, hsub, if_neg]
  intro hge
  rw [not_lt_of_le hge] at hlt
  cases hlt

/-- The increment times no samples is a zero. -/
theorem mul_ofNat_zero {y : F} (h : y.isFinite = true) : ∃ s : Bool, F.mul (F.ofNat 0) y = .fin s 0 := by
  obtain ⟨t, n, rfl⟩ := (isFinite_iff y).mp h
  refine ⟨false != t, ?_⟩
  have hround : F.round (false != t) (magVal 0) 1 = .fin (false != t) 0 := round_magVal (false != t) 0
  rw [← round_mul_right _ _ (d := 2 ^ 149) (by positivity), magVal_zero, Nat.zero_mul] at hround
  rw [show F.ofNat 0 = .fin false 0 by decide, F.mul, ← hround]
  congr 1
  exact Nat.zero_mul _

/-- Skipping no samples writes nothing, from a bounded LFO (R285). -/
theorem lfoSkip_zero {T : Settings} (P : Params) {l : LfoState} (h : l.Bounded T) : lfoSkip P 0 l = l := by
  have ⟨hphase, _⟩ := h
  obtain ⟨hfin, -⟩ := h.inc_nonneg
  obtain ⟨s, hs⟩ := mul_ofNat_zero hfin
  unfold lfoSkip
  split_ifs
  · rfl
  · rw [hs, add_zero_inPhase hphase, wrap01_of_inPhase hphase]

/-! ## Sample-and-Hold sample by sample (R289) -/

/-- On a clean LFO a sample is an advance, but for the stored value. -/
theorem lfoProcess_of_clean (P : Params) (fs : F) {l : LfoState} (h : l.dirty = false) (y : F) :
    { lfoProcess P fs l with last := y } = lfoAdvance1 P { l with last := y } := by
  rw [lfoProcess, lfoFresh_of_clean fs h, lfoStep, lfoAdvance1_withLast P l (lfoSample l), lfoAdvance1_withLast P l y]

/-- On a clean LFO samples are advances, but for the stored value. -/
theorem lfoProcess_iterate_of_clean (P : Params) (fs : F) {l : LfoState} (h : l.dirty = false) (y : F) (m : Nat) :
    { (lfoProcess P fs)^[m] l with last := y } = (lfoAdvance1 P)^[m] { l with last := y } := by
  induction m generalizing l with
  | zero => rfl
  | succ m ih =>
    rw [Function.iterate_succ_apply, Function.iterate_succ_apply, ih (lfoProcess_dirty P fs l),
      lfoProcess_of_clean P fs h]

theorem lfoProcess_last (P : Params) (fs : F) (l : LfoState) :
    (lfoProcess P fs l).last = lfoSample (lfoFresh fs l) := by
  rw [lfoProcess, lfoStep, lfoAdvance1_withLast]

/-- A block in Sample-and-Hold is its samples one by one, but for the stored value. -/
theorem lfoProcessBlock_of_sampleHold (P : Params) (fs : F) {l : LfoState} (hw : l.wave = .sampleHold) (m : Nat) :
    lfoProcessBlock P fs (m + 1) l = { (lfoProcess P fs)^[m + 1] l with last := lfoSample (lfoFresh fs l) } := by
  have hfirst : { lfoProcess P fs l with last := lfoSample (lfoFresh fs l) } = lfoProcess P fs l := by
    rw [← lfoProcess_last P]
  have hskip : lfoProcessBlock P fs (m + 1) l = lfoSkip P m (lfoProcess P fs l) := rfl
  rw [hskip, lfoSkip, if_pos ((lfoProcess_wave P fs l).trans hw), Function.iterate_succ_apply,
    lfoProcess_iterate_of_clean P fs (lfoProcess_dirty P fs l), hfirst]

end Sys2Proof.Machine
end

section
/-!
PROOF. The LFO family: the bounds every step keeps (O57), the bound of the output (O43), LFO.PROCESS and
LFO.PROCESS_BLOCK (O40), a block against single samples (O41, O42), and LFO.RESET, the setters and SEED (O39).
-/

namespace Sys2Proof.Machine

open Sys2Proof Config

/-! ## Commands on one LFO -/

/-- A command addressed to an LFO that returns nothing writes its effect and does nothing else. -/
theorem exec_eq_setLfo {i : Instr} {j : LfoSel} (hu : unitOf i = some (.lfo j)) (hi : i.operandsOk = true) {s : State}
    {l : LfoState} (h : lfoEffect s.settings s.sys.fs i s.lfo[j] = (l, .nothing)) :
    exec i s = .next (s.setLfo j l) :=
  exec_eq_setUnit hu hi h

theorem exec_lfoProcess (j : LfoSel) (s : State) : exec (.lfoProcess j) s =
    .next ((s.setLfo j (lfoProcess params s.sys.fs s.lfo[j])).pushReal params
      (lfoSample (lfoFresh s.sys.fs s.lfo[j]))) := rfl

theorem exec_lfoProcessBlock_zero (j : LfoSel) (s : State) : exec (.lfoProcessBlock j 0#16) s =
    .next (s.pushReal params s.lfo[j].last) := by
  show Host.Outcome.next ((s.setLfo j s.lfo[j]).pushReal params s.lfo[j].last) = _
  rw [show s.setLfo j s.lfo[j] = s from s.setUnit_unit (.lfo j)]

/-- A block of some samples skips all but the first (R289). -/
theorem exec_lfoProcessBlock {count : BitVec 16} (hcount : count ≠ 0#16) (j : LfoSel) (s : State) :
    exec (.lfoProcessBlock j count) s =
    .next ((s.setLfo j (lfoSkip params (count.toNat - 1) (lfoProcess params s.sys.fs s.lfo[j]))).pushReal params
      (lfoSample (lfoFresh s.sys.fs s.lfo[j]))) := by
  have hnat : count.toNat ≠ 0 := fun h => hcount (BitVec.eq_of_toNat_eq h)
  show execLfoProcessBlock j count s = _
  rw [execLfoProcessBlock, lfoProcessBlock, if_neg hnat, if_neg hnat]
  rfl

/-! ## Bounds (R272, R286, R291) -/

/-- Settles O57: a step waits or executes one command, and a command keeps the bounds of the LFO it is addressed to. -/
theorem stepKeepsLfosBounded : Obligations.StepKeepsLfosBounded := by
  intro s t hs hbounded hstep
  refine ⟨stepKeepsParametersInRange s t hs hstep, ?_⟩
  rcases step_next hstep with ⟨-, rfl⟩ | ⟨i, rest, -, hexec⟩
  · exact hbounded
  · intro j
    have haccept := State.accept_paramsInRange hs s.served rest
    have hl : (s.accept s.served rest).lfo[j].Bounded (s.accept s.served rest).settings := by simpa using hbounded j
    rw [exec_settings hexec]
    exact exec_keeps_unit (.lfo j) (LfoState.Bounded _) hexec hl
      (fun _ => lfoEffect_bounded haccept.settings hl haccept.fs (haccept.lfo j) i)
      (fun _ => LfoState.Bounded.clear) (fun _ => id)

/-- Settles O43: the sample is a waveform value in `[-1, 1]` times the depth, rounded from between bounds that are
representable. -/
theorem lfoOutputIsBoundedByDepth : Obligations.LfoOutputIsBoundedByDepth := by
  intro j s hT hl hbounded
  obtain ⟨hlo, hhi⟩ := lfoSample_between hT hl hbounded
  obtain ⟨y, hy, hval⟩ := pushReal_results_own params (s.setLfo j (lfoProcess params s.sys.fs s.lfo[j]))
    (lfoSample (lfoFresh s.sys.fs s.lfo[j]))
  rw [lfoSample_lfoFresh] at hval
  refine ⟨_, y, exec_lfoProcess j s, hy, ?_⟩
  rw [hval (F.ne_nan_of_le hhi).1]
  exact ⟨hlo, hhi⟩

/-! ## LFO.PROCESS and LFO.PROCESS_BLOCK (R283 to R289) -/

/-- Settles O40: the recomputation, the waveform value, the advance and the rest of a block, each as the rules write
it. -/
theorem lfoProcessResult : Obligations.LfoProcessResult := by
  intro j count s put rate l p u bh shape value advance one rest
  have hfresh : lfoFresh s.sys.fs s.lfo[j] = l := rfl
  have hshape : lfoShape l = shape := by
    simp only [shape, lfoShape]
    cases l.wave <;> rfl
  have hadvance : lfoAdvance1 params = advance := funext (lfoAdvance1_eq params)
  have hvalue : lfoSample (lfoFresh s.sys.fs s.lfo[j]) = value := by rw [hfresh, lfoSample, hshape]
  have hone : lfoProcess params s.sys.fs s.lfo[j] = one := by
    rw [lfoProcess, lfoStep, hvalue, hfresh, hadvance]
  have hrest : lfoSkip params (count.toNat - 1) (lfoProcess params s.sys.fs s.lfo[j]) = rest := by
    have hwave : one.wave = l.wave := by rw [← hone, lfoProcess_wave, ← hfresh, lfoFresh_wave]
    rw [lfoSkip, hone, hadvance]
    exact if_congr (by rw [hwave]) rfl rfl
  refine ⟨⟨_, exec_lfoProcess j s, ?_⟩, fun hcount => ⟨_, exec_lfoProcessBlock hcount j s, ?_⟩, ?_⟩
  · rw [hone, hvalue]
    exact pushReal_returned params _ value
  · rw [hrest, hvalue]
    exact pushReal_returned params _ value
  · rintro rfl
    exact ⟨_, exec_lfoProcessBlock_zero j s, pushReal_returned params s _⟩

/-- Settles O41: a block of one sample skips none. -/
theorem lfoBlockOfOneIsProcess : Obligations.LfoBlockOfOneIsProcess := by
  intro j s hT hfs hl hbounded
  have hskip := lfoSkip_zero params (lfoProcess_bounded hT hbounded hfs hl params)
  rw [exec_lfoProcessBlock (by decide), exec_lfoProcess]
  exact congrArg (fun l => Host.Outcome.next ((s.setLfo j l).pushReal params _)) hskip

/-- Settles O42: after the first sample the LFO is clean, and from there a sample is an advance but for the stored
value. -/
theorem sampleHoldBlockMissesNoWrap : Obligations.SampleHoldBlockMissesNoWrap := by
  intro l fs n hw hn
  obtain ⟨m, rfl⟩ := Nat.exists_eq_add_one.mpr hn
  exact lfoProcessBlock_of_sampleHold params fs hw m

/-! ## Commands that return nothing (R275 to R282) -/

/-- Settles O39: each command is one write to its LFO. -/
theorem lfoSettersResult : Obligations.LfoSettersResult := by
  intro j w m s l put
  exact ⟨exec_eq_setLfo rfl rfl rfl, exec_eq_setLfo rfl rfl rfl, exec_eq_setLfo rfl rfl rfl,
    exec_eq_setLfo rfl rfl rfl, exec_eq_setLfo rfl rfl rfl, exec_eq_setLfo rfl rfl rfl, exec_eq_setLfo rfl rfl rfl,
    exec_eq_setLfo rfl rfl rfl⟩

end Sys2Proof.Machine
end

section
/-!
SUPPORT. Arithmetic of the effects chain: what a zero term and a factor 1.0 leave in value (R318), what is finite
(R319, R384), and that the smoothed gain stays in `[0, 1]` (R310).
-/

namespace Sys2Proof.F

set_option Elab.async false

/-! ## Non-finite operands (R381) -/

/-- A sum is finite only where its terms are. -/
theorem isFinite_of_add {a b : F} (h : (add a b).isFinite = true) : a.isFinite = true := by
  cases a with
  | nan => exact h
  | fin s m => rfl
  | inf s =>
    cases b with
    | nan => exact h
    | fin t n => exact h
    | inf t => cases s <;> cases t <;> exact h

/-! ## Patterns of a NaN (R19) -/

/-- A NaN pattern is that of the NaN. -/
theorem asF_of_isNanPattern {w : Word} (h : isNanPattern w = true) : asF w = .nan := by
  have hmag : magInf < (w.extractLsb' 0 31).toNat := of_decide_eq_true h
  rw [asF, dif_neg (Nat.not_lt.mpr hmag.le), if_neg hmag.ne']

/-! ## Factor 1.0 -/

/-- A finite value times 1.0 is itself, bit for bit. -/
theorem mul_one_of_isFinite {x : F} (hx : x.isFinite = true) : mul x one = x := by
  obtain ⟨s, m, rfl⟩ := (isFinite_iff x).mp hx
  have hone : magVal (0x3F800000 : Fin magInf).val = 2 ^ 149 := by decide
  rw [show one = .fin false 0x3F800000 by decide, mul, hone, round_mul_right _ _ (by positivity), round_magVal,
    Bool.bne_false]

/-! ## Equality in value (R18) -/

theorem feq_trans {x y z : F} (h1 : feq x y = true) (h2 : feq y z = true) : feq x z = true := by
  unfold feq at *
  revert h1 h2
  cases key x <;> cases key y <;> cases key z <;> simp
  exact fun a b => a.trans b

end Sys2Proof.F

namespace Sys2Proof.Machine

set_option Elab.async false

open F hiding neg_neg

/-- A pattern of a value, read back, is the value. -/
theorem IsPatternOf.asF_eq {w : Word} {x : F} (h : IsPatternOf w x) : F.asF w = x := by
  rcases h with ⟨-, h⟩ | ⟨rfl, h⟩
  · exact h
  · exact F.asF_of_isNanPattern h

/-! ## Zero terms -/

/-- Adding a zero of either sign leaves a finite value in value. -/
theorem feq_add_zero {x : F} (hx : x.isFinite = true) (s : Bool) : F.feq (F.add x (.fin s 0)) x = true := by
  obtain ⟨-, hside⟩ := add_respects hx (y := .fin s 0) rfl
  have hzero : toRat (.fin s 0) = 0 := by simp [toRat, magVal_zero]
  rw [hzero, add_zero] at hside
  obtain ⟨hle, hge⟩ := hside x hx
  exact feq_of_le (hle le_rfl) (hge le_rfl)

/-- Zero times a finite value is a zero of some sign. -/
theorem zero_mul_of_isFinite {y : F} (hy : y.isFinite = true) : ∃ s : Bool, F.mul F.zero y = .fin s 0 :=
  mul_ofNat_zero hy

/-! ## Signs of rounded results -/

/-- A finite result rounded from a non-negative value is not negative. -/
theorem Respects.nonneg {x : ℚ} {r : F} (h : Respects x r) (hr : r.isFinite = true) (hx : 0 ≤ x) : 0 ≤ toRat r := by
  have hle := (h.2 F.zero rfl).2 (toRat_zero ▸ hx)
  rwa [le_iff_toRat rfl hr, toRat_zero] at hle

/-- A finite result rounded from a value not above zero is not above zero. -/
theorem Respects.nonpos {x : ℚ} {r : F} (h : Respects x r) (hr : r.isFinite = true) (hx : x ≤ 0) : toRat r ≤ 0 := by
  have hle := (h.2 F.zero rfl).1 (toRat_zero ▸ hx)
  rwa [le_iff_toRat hr rfl, toRat_zero] at hle

/-! ## What a factor in `[0, 1]` does -/

/-- A factor in `[0, 1]` keeps a product between zero and the other factor. -/
theorem mul_between_of_inUnit {k d : F} (hk : inUnit k = true) (hd : d.isFinite = true) :
    (F.mul k d).isFinite = true ∧
      (0 ≤ toRat d → 0 ≤ toRat (F.mul k d) ∧ toRat (F.mul k d) ≤ toRat d) ∧
      (toRat d ≤ 0 → toRat d ≤ toRat (F.mul k d) ∧ toRat (F.mul k d) ≤ 0) := by
  obtain ⟨hkfin, hk0, hk1⟩ := (inUnit_iff_toRat k).mp hk
  have hprod := mul_respects hkfin hd
  have hup : 0 ≤ toRat d → (F.mul k d).isFinite = true ∧ 0 ≤ toRat (F.mul k d) ∧ toRat (F.mul k d) ≤ toRat d :=
    fun h => toRat_zero ▸ hprod.between (lo := F.zero) rfl hd (toRat_zero ▸ mul_nonneg hk0 h)
      (mul_le_of_le_one_left h hk1)
  have hdown : toRat d ≤ 0 → (F.mul k d).isFinite = true ∧ toRat d ≤ toRat (F.mul k d) ∧ toRat (F.mul k d) ≤ 0 :=
    fun h => toRat_zero ▸ hprod.between (hi := F.zero) hd rfl (by nlinarith)
      (toRat_zero ▸ mul_nonpos_of_nonneg_of_nonpos hk0 h)
  exact ⟨(le_total 0 (toRat d)).elim (fun h => (hup h).1) fun h => (hdown h).1, fun h => (hup h).2,
    fun h => (hdown h).2⟩

/-! ## The smoothed gain (R310) -/

/-- Above a magnitude the next value is that of the next pattern (R17). -/
theorem toRat_above {m : Fin magInf} {x : F} (h : toRat (.fin false m) < toRat x) :
    (magVal (m.val + 1) : ℚ) / 2 ^ 149 ≤ toRat x := by
  have hm : 0 ≤ toRat (.fin false m) := by rw [toRat_pos]; positivity
  cases x with
  | nan | inf _ => exact absurd h (not_lt.mpr hm)
  | fin s n =>
    cases s with
    | true =>
      have hn : (0 : ℚ) ≤ magVal n.val / 2 ^ 149 := by positivity
      rw [toRat_negative] at h
      linarith
    | false =>
      rw [toRat_pos, toRat_pos, div_lt_div_iff_of_pos_right two149_pos, Nat.cast_lt, magVal_lt_iff] at h
      rw [toRat_pos, div_le_div_iff_of_pos_right two149_pos, Nat.cast_le, magVal_le_iff]
      exact h

/-- What lies below the middle between a magnitude and the next is not rounded above the magnitude (R18). -/
theorem RoundsTo.le_of_lt_middle {x : ℚ} {r : F} (h : RoundsTo x r) {m : Fin magInf}
    (hx : 2 * x < toRat (.fin false m) + magVal (m.val + 1) / 2 ^ 149) : toRat r ≤ toRat (.fin false m) := by
  by_contra hgt
  have habove := toRat_above (not_le.mp hgt)
  cases r with
  | nan => exact h
  | inf _ => exact hgt (by rw [toRat_pos]; exact div_nonneg (Nat.cast_nonneg _) two149_pos.le)
  | fin s n =>
    obtain ⟨-, -, -, hbest⟩ := h
    obtain ⟨hnear, -⟩ := hbest (.fin false m) rfl
    have hfar := (le_abs_self _).trans hnear
    rcases abs_cases (toRat (.fin false m) - x) with ⟨habs, -⟩ | ⟨habs, -⟩ <;> linarith

/-- What passes 1.0 by less than half the distance to the next value is not rounded above it. -/
theorem RoundsTo.le_one {x : ℚ} {r : F} (h : RoundsTo x r) (hx : x < 1 + 1 / 2 ^ 24) : toRat r ≤ 1 := by
  have hone : toRat (.fin false 0x3F800000) = 1 := toRat_one
  have hnext : (magVal ((0x3F800000 : Fin magInf).val + 1) : ℚ) / 2 ^ 149 = 1 + 1 / 2 ^ 23 := by
    rw [show magVal ((0x3F800000 : Fin magInf).val + 1) = 2 ^ 149 + 2 ^ 126 by decide]
    norm_num
  rw [← hone]
  refine h.le_of_lt_middle ?_
  rw [hone, hnext]
  linarith

/-- A gain that moves towards a level by a fraction stays in `[0, 1]`: going down it stops at the level's side of zero,
and going up the rounded distance to the level passes the exact one by at most `2^-25`, too little to round above
1.0. -/
theorem smoothed_inUnit {g k c : F} (hg : inUnit g = true) (hk : inUnit k = true) (hc : inUnit c = true) :
    inUnit (F.add g (F.mul k (F.sub c g))) = true := by
  obtain ⟨hgfin, hg0, hg1⟩ := (inUnit_iff_toRat g).mp hg
  obtain ⟨hcfin, hc0, hc1⟩ := (inUnit_iff_toRat c).mp hc
  have hdiff := sub_isRounded hcfin hgfin
  obtain ⟨hdfin, hd0, -⟩ := hdiff.respects.between (lo := F.neg g) (hi := F.one) ((isFinite_neg g).trans hgfin) rfl
    (by rw [toRat_neg]; linarith) (by rw [toRat_one]; linarith)
  rw [toRat_neg] at hd0
  obtain ⟨hpfin, hpup, hpdown⟩ := mul_between_of_inUnit hk hdfin
  have hsum := add_isRounded hgfin hpfin
  rw [inUnit_iff_toRat]
  rcases le_total (toRat g) (toRat c) with h | h
  · obtain ⟨hp0, hp1⟩ := hpup (hdiff.respects.nonneg hdfin (by linarith))
    have herr := (abs_le.mp (hdiff.roundsTo.error_le (j := 24) (by norm_num) (by linarith) (by linarith))).2
    have hlt : toRat g + toRat (F.mul k (F.sub c g)) < 1 + 1 / 2 ^ 24 := by
      norm_num at herr ⊢
      linarith
    have hfin := hsum.roundsTo.isFinite (by
      rw [abs_of_nonneg (by linarith)]
      norm_num at hlt ⊢
      linarith)
    exact ⟨hfin, hsum.respects.nonneg hfin (by linarith), hsum.roundsTo.le_one hlt⟩
  · obtain ⟨hp0, hp1⟩ := hpdown (hdiff.respects.nonpos hdfin (by linarith))
    obtain ⟨hfin, -, hle⟩ := hsum.respects.between (lo := F.zero) (hi := g) rfl hgfin
      (by rw [toRat_zero]; linarith) (by linarith)
    exact ⟨hfin, hsum.respects.nonneg hfin (by linarith), hle.trans hg1⟩

end Sys2Proof.Machine
end

section
/-!
SUPPORT. The effects chain: the delay line under further samples (R308), the samples between the stages of FX.PROCESS
(R305), and the finiteness of the lines (R318, R386).
-/

namespace Sys2Proof.Machine

open Sys2Proof Config

set_option Elab.async false

/-! ## The delay line (R308) -/

/-- A step writes the element at the write index. -/
theorem delayStep_get_same {T : Settings} {x : FxState} (y : F) (h : x.dly.wf T.dlyLen = true) :
    (delayStep T x y).dly.get x.dlyW = y :=
  Line.get_set_same y h

/-- A step writes no other element. -/
theorem delayStep_get_other (T : Settings) {x : FxState} (y : F) {k : Nat} (hk : k ≠ x.dlyW) :
    (delayStep T x y).dly.get k = x.dly.get k :=
  Line.get_set_other x.dly y hk.symm

/-- Samples move the write index by their number, round the line. -/
theorem foldl_delayStep_dlyW {T : Settings} (ys : List F) {x : FxState} (hw : x.dlyW < T.dlyLen) :
    (ys.foldl (delayStep T) x).dlyW = (x.dlyW + ys.length) % T.dlyLen := by
  induction ys generalizing x with
  | nil => exact (Nat.mod_eq_of_lt hw).symm
  | cons y ys ih =>
    rw [List.foldl_cons, ih (delayStep_dlyW_lt x y hw), delayStep_dlyW, Nat.mod_add_mod, List.length_cons,
      Nat.add_assoc, Nat.add_comm 1]

/-- Samples leave an element alone that the write index does not come by. -/
theorem foldl_delayStep_get {T : Settings} {k : Nat} (ys : List F) {x : FxState} (hw : x.dlyW < T.dlyLen)
    (hk : ∀ j < ys.length, k ≠ (x.dlyW + j) % T.dlyLen) :
    (ys.foldl (delayStep T) x).dly.get k = x.dly.get k := by
  induction ys generalizing x with
  | nil => rfl
  | cons y ys ih =>
    have hhead : k ≠ x.dlyW := by
      have := hk 0 (Nat.succ_pos _)
      rwa [Nat.add_zero, Nat.mod_eq_of_lt hw] at this
    have htail : ∀ j < ys.length, k ≠ ((delayStep T x y).dlyW + j) % T.dlyLen := by
      intro j hj
      rw [delayStep_dlyW, Nat.mod_add_mod, Nat.add_assoc, Nat.add_comm 1]
      exact hk (j + 1) (Nat.succ_lt_succ hj)
    rw [List.foldl_cons, ih (delayStep_dlyW_lt x y hw) htail, delayStep_get_other T y hhead]

/-- The tap `d` back from `d` places on is the place itself (R382 d). -/
theorem tapIndex_add {len w d : Nat} (hw : w < len) (hd : d < len) : tapIndex len ((w + d) % len) d = w := by
  have hround : w + d + (len - d) = w + len := by omega
  rw [tapIndex, Nat.mod_eq_of_lt hd, Nat.mod_add_mod, hround, Nat.add_mod_right, Nat.mod_eq_of_lt hw]

/-- A sample and fewer further ones than the line holds: the tap at their number reads the first. -/
theorem foldl_delayStep_tap {T : Settings} {x : FxState} (y : F) (ys : List F) (h : x.dly.wf T.dlyLen = true)
    (hw : x.dlyW < T.dlyLen) (hlen : ys.length + 1 < T.dlyLen) :
    (ys.foldl (delayStep T) (delayStep T x y)).dly.get
      (tapIndex T.dlyLen (ys.foldl (delayStep T) (delayStep T x y)).dlyW (ys.length + 1)) = y := by
  have hw' := delayStep_dlyW_lt x y hw
  have hindex : (ys.foldl (delayStep T) (delayStep T x y)).dlyW = (x.dlyW + (ys.length + 1)) % T.dlyLen := by
    rw [foldl_delayStep_dlyW ys hw', delayStep_dlyW, Nat.mod_add_mod, Nat.add_assoc, Nat.add_comm 1]
  have hmissed : ∀ j < ys.length, x.dlyW ≠ ((delayStep T x y).dlyW + j) % T.dlyLen := by
    intro j hj heq
    rw [delayStep_dlyW, Nat.mod_add_mod] at heq
    rcases Nat.lt_or_ge (x.dlyW + 1 + j) T.dlyLen with hlt | hge
    · rw [Nat.mod_eq_of_lt hlt] at heq
      omega
    · rw [Nat.mod_eq_sub_mod hge, Nat.mod_eq_of_lt (by omega)] at heq
      omega
  rw [hindex, tapIndex_add hw hlen, foldl_delayStep_get ys hw' hmissed, delayStep_get_same y h]

/-! ## Elements of a finite line (R318) -/

/-- Every element of a finite line is finite, listed or not. -/
theorem isFinite_get_of_lineFinite {l : Line} (h : lineFinite l = true) (i : Nat) : (l.get i).isFinite = true := by
  obtain ⟨es⟩ := l
  unfold Line.get lineFinite at *
  induction es with
  | nil => rfl
  | cons e rest ih =>
    obtain ⟨k, x⟩ := e
    rw [List.all_cons, Bool.and_eq_true] at h
    obtain ⟨hx, hrest⟩ := h
    rw [lookupEntry]
    split_ifs
    · exact hx
    · exact ih hrest

/-- A finite sample written keeps a line finite. -/
theorem lineFinite_set_of_isFinite {l : Line} {x : F} (i : Nat) (h : lineFinite l = true) (hx : x.isFinite = true) :
    lineFinite (l.set i x) = true := by
  unfold lineFinite at *
  rw [List.all_eq_true] at h ⊢
  intro e he
  rcases mem_insertEntry he with rfl | he
  · exact hx
  · exact h e he

/-! ## Between the stages (R305) -/

/-- The chorus kernel's next state and the sample after saturation and chorus. -/
def fxChorused (P : Params) (x : FxState) (input : F) : KernelState × F :=
  chorusKernel P x.ch (fxSat P x input) x.cur[4]

/-- The sample after the delay. -/
def fxDelayed (P : Params) (T : Settings) (fs : F) (x : FxState) (input : F) : F :=
  delayOut T fs x (fxChorused P x input).2 x.cur[2] x.cur[3]

/-- The reverb kernel's next state and the sample after the reverb. -/
def fxReverbed (P : Params) (T : Settings) (fs : F) (x : FxState) (input : F) : KernelState × F :=
  reverbKernel P x.rv (fxDelayed P T fs x input) x.cur[5]

section
variable (P : Params) (T : Settings) (fs : F) (x : FxState) (input : F)

/-- FX.PROCESS as one update: no stage reads what another one writes but the sample. -/
theorem fxProcess_eq : fxProcess P T fs x input =
    ({ x with
        g := smoothedGain T x, ch := (fxChorused P x input).1
        dly := x.dly.set x.dlyW (fxDelayed P T fs x input), dlyW := (x.dlyW + 1) % T.dlyLen
        rv := (fxReverbed P T fs x input).1 },
      F.mul (fxReverbed P T fs x input).2 (smoothedGain T x)) := rfl

@[simp] theorem fxProcess_g : (fxProcess P T fs x input).1.g = smoothedGain T x := rfl
@[simp] theorem fxProcess_dly :
    (fxProcess P T fs x input).1.dly = x.dly.set x.dlyW (fxDelayed P T fs x input) := rfl
@[simp] theorem fxProcess_ch : (fxProcess P T fs x input).1.ch = (fxChorused P x input).1 := rfl
@[simp] theorem fxProcess_rv : (fxProcess P T fs x input).1.rv = (fxReverbed P T fs x input).1 := rfl
@[simp] theorem fxProcess_out : (fxProcess P T fs x input).2 =
    F.mul (fxReverbed P T fs x input).2 (smoothedGain T x) := rfl

end

/-! ## Kernels, stated once for both (R307, R309) -/

/-- At mix 0.0 a kernel on a finite line returns a finite sample in value. -/
theorem kernelCall_zero (raw : KernelState → F → F → KernelStep) {k : KernelState} {x mix : F}
    (hx : x.isFinite = true) (hl : lineFinite k.line = true) (hm : F.feq mix F.zero = true) :
    F.feq (kernelCall raw k x mix).2 x = true :=
  kernelOut_zero k x mix _ hx hl hm

/-! ## Transparency (R318) -/

section
variable {x : FxState} (hcur : x.cur = #v[F.lit 1 1, F.zero, F.lit 1 4, F.zero, F.zero, F.zero])
include hcur

/-- Unit gain at the default level stays where it is, for a finite rate. -/
theorem smoothedGain_of_default {T : Settings} (hg : x.g = F.lit 1 1) (hk : T.smoothK.isFinite = true) :
    smoothedGain T x = F.one := by
  obtain ⟨s, hs⟩ := zero_mul_of_isFinite hk
  have hstep : F.mul T.smoothK (F.sub x.cur[0] x.g) = .fin s 0 := by
    rw [hcur, hg, F.mul_comm', ← hs]
    congr 1
  rw [smoothedGain, hstep, hg]
  cases s <;> decide

variable {input : F} (hlines : x.LinesFinite) (hinput : input.isFinite = true)
include hlines hinput

/-- No saturation and no chorus: the sample in value. -/
theorem fxChorused_of_default (P : Params) : F.feq (fxChorused P x input).2 input = true := by
  obtain ⟨-, hch, -⟩ := hlines
  have hsat : F.feq (fxSat P x input) input = true := satFn_zero P input _ hinput (by rw [hcur]; decide)
  exact F.feq_trans (kernelCall_zero P.rawChorus (isFinite_of_feq hsat hinput) hch (by rw [hcur]; decide)) hsat

/-- No feedback: what the tap adds is a zero. -/
theorem fxDelayed_of_default (P : Params) (T : Settings) (fs : F) : F.feq (fxDelayed P T fs x input) input = true := by
  have hs2 := fxChorused_of_default hcur hlines hinput P
  obtain ⟨hdly, -⟩ := hlines
  obtain ⟨s, hs⟩ := zero_mul_of_isFinite
    (isFinite_get_of_lineFinite hdly (tapIndex T.dlyLen x.dlyW (delayLength T fs x.cur[2])))
  have hfb : x.cur[3] = F.zero := by rw [hcur]; rfl
  rw [fxDelayed, delayOut, hfb, hs]
  exact F.feq_trans (feq_add_zero (isFinite_of_feq hs2 hinput) s) hs2

/-- No reverb: the sample in value. -/
theorem fxReverbed_of_default (P : Params) (T : Settings) (fs : F) :
    F.feq (fxReverbed P T fs x input).2 input = true := by
  have hs3 := fxDelayed_of_default hcur hlines hinput P T fs
  obtain ⟨-, -, hrv⟩ := hlines
  exact F.feq_trans (kernelCall_zero P.rawReverb (isFinite_of_feq hs3 hinput) hrv (by rw [hcur]; decide)) hs3

end

/-! ## Amounts, mixes and the gain (R302, R310) -/

section
variable {T : Settings} (hT : SettingsOk T)
include hT

/-- A parameter of the rows within `[0, 1]`, in its row, is in `[0, 1]` (R306, R307). -/
theorem inUnit_of_inRange {c : Control}
    (hc : c ∈ ([.envSustain, .fxMaster, .fxSat, .fxChMix, .fxRvMix] : List Control)) {x : F}
    (h : inRange T c x = true) : inUnit x = true := by
  have hrow := hT.units c hc
  simp only [inRange, inRow, rowWithin, inUnit, Bool.and_eq_true] at h hrow ⊢
  obtain ⟨⟨-, hlo⟩, hhi⟩ := h
  obtain ⟨hzero, hone⟩ := hrow
  exact ⟨F.le_trans' hzero hlo, F.le_trans' hhi hone⟩

variable {x : FxState} (hx : x.InRange T)
include hx

/-- The latched level, amount and mixes are in `[0, 1]`. -/
theorem FxState.InRange.amounts_inUnit : inUnit x.cur[0] = true ∧ inUnit x.cur[1] = true ∧
    inUnit x.cur[4] = true ∧ inUnit x.cur[5] = true := by
  have hcur (p : Fin nfx) (hp : fxControl p ∈ ([.envSustain, .fxMaster, .fxSat, .fxChMix, .fxRvMix] : List Control)) :
      inUnit x.cur[p] = true := inUnit_of_inRange hT hp (hx p).2
  exact ⟨hcur 0 (by decide), hcur 1 (by decide), hcur 4 (by decide), hcur 5 (by decide)⟩

/-- The smoothed gain stays in `[0, 1]` (R310). -/
theorem smoothedGain_inUnit (hg : inUnit x.g = true) : inUnit (smoothedGain T x) = true := by
  obtain ⟨hlevel, -⟩ := hx.amounts_inUnit hT
  exact smoothed_inUnit hg hT.smooth hlevel

/-! ## A finite sample (R319, R386) -/

/-- Saturation and chorus keep a finite sample and a finite line finite (D41). -/
theorem fxChorused_finite (P : Params) {input : F} (hinput : input.isFinite = true) (hlines : x.LinesFinite) :
    lineFinite (fxChorused P x input).1.line = true ∧ (fxChorused P x input).2.isFinite = true := by
  obtain ⟨-, hsat, hmix, -⟩ := hx.amounts_inUnit hT
  obtain ⟨-, hch, -⟩ := hlines
  exact kernelCall_finite P.rawChorus x.ch _ _ (satFn_finite P input _ hinput hsat) hch hmix

/-- The chain keeps the lines and the result finite where the delay's own sum does not overflow. -/
theorem fxProcess_finite (P : Params) (fs : F) {input : F} (hg : inUnit x.g = true) (hlines : x.LinesFinite)
    (hinput : input.isFinite = true) (hs3 : (fxDelayed P T fs x input).isFinite = true) :
    (fxProcess P T fs x input).1.LinesFinite ∧ (fxProcess P T fs x input).2.isFinite = true := by
  obtain ⟨hch', -⟩ := fxChorused_finite hT hx P hinput hlines
  obtain ⟨hdly, -, hrv⟩ := hlines
  obtain ⟨-, -, -, hmix⟩ := hx.amounts_inUnit hT
  obtain ⟨hrv', hs4⟩ := kernelCall_finite P.rawReverb x.rv _ x.cur[5] hs3 hrv hmix
  refine ⟨⟨lineFinite_set_of_isFinite x.dlyW hdly hs3, hch', hrv'⟩, ?_⟩
  rw [fxProcess_out, F.mul_comm']
  exact (mul_between_of_inUnit (smoothedGain_inUnit hT hx hg) hs4).1

/-! ## A non-finite sample (R384, R386) -/

/-- A non-finite sample lodges in the three lines and comes out non-finite. -/
theorem fxProcess_not_finite (P : Params) (fs : F) {input : F} (hinput : input.isFinite = false) :
    lineFinite (fxProcess P T fs x input).1.ch.line = false ∧ lineFinite (fxProcess P T fs x input).1.dly = false ∧
      lineFinite (fxProcess P T fs x input).1.rv.line = false ∧ (fxProcess P T fs x input).2.isFinite = false := by
  obtain ⟨-, hsat, hmixCh, hmixRv⟩ := hx.amounts_inUnit hT
  obtain ⟨hch, hs2⟩ := kernelCall_not_finite P.rawChorus x.ch (fxSat P x input) x.cur[4]
    (satFn_not_finite P input _ hinput hsat) hmixCh
  have hs3 : (fxDelayed P T fs x input).isFinite = false :=
    Bool.eq_false_iff.mpr fun h => Bool.eq_false_iff.mp hs2 (F.isFinite_of_add h)
  obtain ⟨hrv, hs4⟩ := kernelCall_not_finite P.rawReverb x.rv _ x.cur[5] hs3 hmixRv
  exact ⟨hch, lineFinite_set x.dly x.dlyW hs3, hrv,
    Bool.eq_false_iff.mpr fun h => Bool.eq_false_iff.mp hs4 (isFinite_of_mul h)⟩

end

end Sys2Proof.Machine
end

section
/-!
PROOF. The effects chain: FX.PROCESS (O45), the delay line (O46), transparency at the defaults (O47), finiteness (O48),
and the FX commands that return nothing (O44).
-/

namespace Sys2Proof.Machine

open Sys2Proof Config

set_option Elab.async false

/-! ## FX.PROCESS (R305 to R310, R316) -/

theorem exec_fxProcess (w : Word) (s : State) : exec (.fxProcess w) s =
    .next ((s.setFx (fxProcess params s.settings s.sys.fs s.fx (F.asF w)).1).pushReal params
      (fxProcess params s.settings s.sys.fs s.fx (F.asF w)).2) := rfl

/-- FX.PROCESS completes: the chain's state is written, and one word is returned, whose value is the chain's sample. -/
theorem exec_fxProcess_result (w : Word) (s : State) : ∃ (t : State) (y : Word), exec (.fxProcess w) s = .next t ∧
    t.results s.port = s.results s.port ++ [y] ∧
    t.fx = (fxProcess params s.settings s.sys.fs s.fx (F.asF w)).1 ∧
    F.asF y = (fxProcess params s.settings s.sys.fs s.fx (F.asF w)).2 := by
  refine ⟨_, _, exec_fxProcess w s, ?_, by rw [State.pushReal_fx, State.setFx_fx],
    (isPatternOf_bitsOr params s.nanDraws _).asF_eq⟩
  rw [pushReal_results]
  exact if_pos rfl

/-- Settles O45: the five stages as one update, and the sample of the last returned. -/
theorem effectProcessResult : Obligations.EffectProcessResult := by
  intro w s x s1 chorus s2 d size len tap s3 reverb g
  refine ⟨_, exec_fxProcess w s, ?_⟩
  rw [fxProcess_eq]
  exact pushReal_returned params _ _

/-! ## The delay line (R308) -/

/-- Settles O46: the write index comes by no element twice in fewer samples than the line holds. -/
theorem delayLineReturnsWhatWasWritten : Obligations.DelayLineReturnsWhatWasWritten := by
  intro T x y h hw
  refine ⟨delayStep_get_same y h, fun k => delayStep_get_other T y, delayStep_dlyW T x y, fun ys hlen => ?_⟩
  intro z
  have htap : z.dly.get (tapIndex T.dlyLen z.dlyW (ys.length + 1)) = y := foldl_delayStep_tap y ys h hw hlen
  refine ⟨htap, fun fs s2 time fb hd => ?_⟩
  rw [delayOut, hd, htap]

/-! ## Transparency (R318) -/

/-- Settles O47: each stage returns its sample in value, and the gain is 1.0. -/
theorem effectsAreTransparentAtDefaults : Obligations.EffectsAreTransparentAtDefaults := by
  intro w s hcur hg hk hlines hinput
  have hgain := smoothedGain_of_default hcur hg hk
  have hs4 := fxReverbed_of_default hcur hlines hinput params s.settings s.sys.fs
  have hfin := isFinite_of_feq hs4 hinput
  obtain ⟨t, y, hexec, hresults, hfx, hval⟩ := exec_fxProcess_result w s
  refine ⟨t, y, hexec, hresults, ?_, by rw [hfx, fxProcess_cur], by rw [hfx, fxProcess_g, hgain]; rfl⟩
  rw [hval, fxProcess_out, hgain, F.mul_one_of_isFinite (isFinite_of_feq hs4 hinput)]
  exact hs4

/-! ## Finiteness (R319, R384, R386) -/

/-- Settles O48: stage by stage, a finite sample stays finite but for the delay's own sum, and a non-finite one stays
non-finite. -/
theorem effectsCarryFiniteness : Obligations.EffectsCarryFiniteness := by
  intro w s hT hx hg
  obtain ⟨t, y, hexec, hresults, hfx, hval⟩ := exec_fxProcess_result w s
  have hgain : inUnit t.fx.g = true := by
    rw [hfx]
    exact smoothedGain_inUnit hT hx hg
  constructor
  · intro hlines hinput s2
    obtain ⟨-, hs2⟩ := fxChorused_finite hT hx params hinput hlines
    refine ⟨hs2, fun hs3 => ?_⟩
    obtain ⟨hlines', hout⟩ := fxProcess_finite hT hx params s.sys.fs hg hlines hinput hs3
    exact ⟨t, y, hexec, hresults, hval ▸ hout, hfx ▸ hlines', hgain⟩
  · intro hinput
    obtain ⟨hch, hdly, hrv, hout⟩ := fxProcess_not_finite hT hx params s.sys.fs hinput
    rw [← hfx] at hch hdly hrv
    exact ⟨t, y, hexec, hresults, hval ▸ hout, hch, hdly, hrv, hgain⟩

/-! ## Commands that return nothing (R312 to R315) -/

/-- An FX command that returns nothing writes its effect and does nothing else. -/
theorem exec_eq_setFx {i : Instr} (hu : unitOf i = some .fx) (hi : i.operandsOk = true) {s : State} {x : FxState}
    (h : fxEffect s.settings s.sys.fs i s.fx = (x, .nothing)) : exec i s = .next (s.setFx x) :=
  exec_eq_setUnit hu hi h

/-- A modulation that is not finite is none (R315). -/
theorem fxModulated_of_not_finite (T : Settings) (p : Fin nfx) (cur : F) {delta : F} (h : delta.isFinite = false) :
    fxModulated T p cur delta = cur := by
  rw [fxModulated, h]
  rfl

theorem fxModulated_of_finite (T : Settings) (p : Fin nfx) (cur : F) {delta : F} (h : delta.isFinite = true) :
    fxModulated T p cur delta =
      clampv (F.add cur delta) ⟨(T.range (fxControl p)).lo, (T.range (fxControl p)).hi, cur⟩ :=
  if_pos h

/-- Settles O44: each command is one write to FX, parameter by parameter in its row. -/
theorem effectSettersResult : Obligations.EffectSettersResult := by
  intro p w s row
  have hrow : s.settings.range (fxControl p) = row := by
    simp only [row]
    fin_cases p <;> rfl
  refine ⟨exec_eq_setFx rfl rfl rfl, ?_, exec_eq_setFx rfl rfl rfl, fun h => ?_, fun h => ?_⟩
  · rw [← hrow]
    exact exec_eq_setFx rfl rfl rfl
  · have hcur : s.fx.cur.set p (fxModulated s.settings p s.fx.cur[p] (F.asF w)) = s.fx.cur := by
      rw [fxModulated_of_not_finite _ p _ h]
      exact Vector.set_getElem_self p.isLt
    have hexec : exec (.fxModAdd p w) s = .next (s.setFx
        { s.fx with cur := s.fx.cur.set p (fxModulated s.settings p s.fx.cur[p] (F.asF w)) }) :=
      exec_eq_setFx rfl rfl rfl
    rw [hexec, hcur]
    rfl
  · rw [← hrow, ← fxModulated_of_finite s.settings p _ h]
    exact exec_eq_setFx rfl rfl rfl

end Sys2Proof.Machine
end

section
/-!
PROOF. SYS.RESET and SYS.PREPARE on the whole state (O20).
-/

namespace Sys2Proof.Machine

open Sys2Proof Config

set_option Elab.async false

/-- SYS.RESET as a map over each kind of unit. -/
theorem State.clearSignals_eq (s : State) : s.clearSignals =
    { s with
      ar := s.ar.map ArState.clearPhases, rfb := s.rfb.map RfbState.clear
      env := s.env.map fun p => p.map EnvState.clear, fb := s.fb.map FbState.clear
      lfo := s.lfo.map LfoState.clear, fx := s.fx.clear } := by
  have henv : (Vector.ofFn fun v => Vector.ofFn fun e => s.env[v][e].clear) =
      s.env.map fun p => p.map EnvState.clear := by
    rw [ofFn_getElem_eq_map fun p : Vector EnvState 2 => Vector.ofFn fun e => p[e].clear]
    exact congrArg (s.env.map ·) (funext (ofFn_getElem_eq_map EnvState.clear))
  rw [State.clearSignals, henv, ofFn_getElem_eq_map ArState.clearPhases, ofFn_getElem_eq_map RfbState.clear,
    ofFn_getElem_eq_map FbState.clear, ofFn_getElem_eq_map LfoState.clear]

/-- Every dirty flag set, as a map over each kind of unit that has one. -/
theorem State.markAllDirty_eq (s : State) : s.markAllDirty =
    { s with
      ar := s.ar.map ArState.markDirty, rfb := s.rfb.map RfbState.markDirty
      env := s.env.map fun p => p.map EnvState.markDirty, fb := s.fb.map FbState.markDirty
      lfo := s.lfo.map LfoState.markDirty } := by
  have henv : (Vector.ofFn fun v => Vector.ofFn fun e => s.env[v][e].markDirty) =
      s.env.map fun p => p.map EnvState.markDirty := by
    rw [ofFn_getElem_eq_map fun p : Vector EnvState 2 => Vector.ofFn fun e => p[e].markDirty]
    exact congrArg (s.env.map ·) (funext (ofFn_getElem_eq_map EnvState.markDirty))
  rw [State.markAllDirty, henv, ofFn_getElem_eq_map ArState.markDirty, ofFn_getElem_eq_map RfbState.markDirty,
    ofFn_getElem_eq_map FbState.markDirty, ofFn_getElem_eq_map LfoState.markDirty]

/-- SYS.PREPARE as a map over each kind of unit. -/
theorem State.prepared_eq (s : State) (blk : BitVec 16) (fs : Word) : s.prepared blk fs =
    { s with
      sys := ⟨control s.settings .sysFs fs, blk⟩
      ar := s.ar.map fun a => a.clearPhases.markDirty, rfb := s.rfb.map fun b => b.clear.markDirty
      env := s.env.map fun p => p.map fun n => n.clear.markDirty, fb := s.fb.map fun b => b.clear.markDirty
      lfo := s.lfo.map fun l => l.clear.markDirty, fx := s.fx.clear } := by
  rw [State.prepared, State.markAllDirty_eq, State.clearSignals_eq]
  simp only [Vector.map_map, Function.comp_def]

/-- Settles O20: RESET of every unit, and for SYS.PREPARE the flag of every unit after it, each a map of the slots. -/
theorem systemCommandsResult : Obligations.SystemCommandsResult := by
  intro blk w s
  have har : ArState.clearPhases = _ := funext ArState.clearPhases_eq
  have hrfb : RfbState.clear = _ := funext RfbState.clear_eq
  constructor
  · rw [exec_sysReset, State.clearSignals_eq, har, hrfb]
    rfl
  · rw [exec_sysPrepare, State.prepared_eq, har, hrfb]
    rfl

end Sys2Proof.Machine
end

section
/-!
PROOF. The rights of port CTL (O3, R388), completion of every command (O49, R380, R387), and the idle machine (O8,
R394).
-/

namespace Sys2Proof.Machine

open Sys2Proof Config

set_option Elab.async false

/-! ## What port CTL admits (R388) -/

/-- The commands R388 lists for port CTL, in its order. -/
def ctlOps : List Op :=
  [.arGetAmp, .rfbGetAmp, .envSetAttack, .envSetDecay, .envSetSustain, .envSetRelease, .envGetLevel, .envGetState,
    .fbSetCutoff, .fbSetRes, .fbSetMode, .lfoSetRate, .lfoSetDepth, .lfoSetWave, .lfoSetSync, .lfoSetBpm, .lfoSetDiv,
    .lfoGetValue, .fxSet, .fxGetParam]

/-- The rows marked CTL are the listed ones (R103, R388). -/
theorem row_ctl_iff (o : Op) : (row o).ctl = true ↔ o ∈ ctlOps := by cases o <;> decide

theorem admittedOn_ctl_iff (i : Instr) : i.admittedOn .ctl = true ↔ i.op ∈ ctlOps := row_ctl_iff i.op

section
variable {nv : Nat} {p : Port} {i : Instr} (hi : i.WellFormed nv) (hp : i.admittedOn p = false)
include hi hp

/-- The port is all that is wrong with the header of a well-formed command the port does not admit. -/
theorem headerError_of_not_admitted : headerError nv p (row i.op) (headerOf i) = some .notAdmitted := by
  obtain ⟨hfields, hinst, hparam⟩ := headerClear i nv hi
  have hadm : admitted p (row i.op) = false := hp
  simp [headerError, hfields, hinst, hparam, hadm]

/-- It is refused on its header, whatever follows. -/
theorem decode_encode_of_not_admitted (rest : List Word) :
    decode nv p (encode i ++ rest) = .invalid .notAdmitted := by
  simp [encode_eq_cons, decode, headerError_of_not_admitted hi hp]

end

/-- Settles O3: the rows marked CTL are R388's twenty, and the port is the last thing a header is checked for. -/
theorem ctlAdmitsExactlyItsTwentyCommands : Obligations.CtlAdmitsExactlyItsTwentyCommands := by
  intro nv i rest hi
  change decode nv .ctl (encode i ++ rest) = if i.op ∈ ctlOps then .command i rest else .invalid .notAdmitted
  split_ifs with hop
  · exact decode_encode_append hi ((admittedOn_ctl_iff i).mpr hop) rest
  · exact decode_encode_of_not_admitted hi (Bool.eq_false_iff.mpr (mt (admittedOn_ctl_iff i).mp hop)) rest

/-! ## Completion (R380, R387) -/

/-- Settles O49: a command needs no more than the operand words its format asks, and there is no fault to answer. -/
theorem everyCommandCompletes : Obligations.EveryCommandCompletes :=
  ⟨fun _ s hi => exec_completes (operands_ok hi) s, fun _ f => nomatch f⟩

/-! ## The idle machine (R394) -/

/-- With both channels empty neither port holds anything whole, so a step waits (R85). -/
theorem step_of_idle {s : State} (hA : s.cmdA = []) (hC : s.cmdC = []) : step s = .next s := by
  have haud : s.head .aud = .incomplete := congrArg (decode _ .aud) hA
  have hctl : s.head .ctl = .incomplete := congrArg (decode _ .ctl) hC
  exact incompleteCommandWaits.2 s haud hctl

/-- Settles O8, by induction on the number of steps: each waits and leaves the state for the next. -/
theorem idleMachineHoldsItsState : Obligations.IdleMachineHoldsItsState := by
  intro s n hA hC
  induction n with
  | zero => rfl
  | succ n ih => exact (run_succ (step_of_idle hA hC) n).trans ih

end Sys2Proof.Machine
end

section
/-!
PROOF. The state after power-on: field by field at the reference settings (O19, R400), and within every invariant at
all settings a machine may have (O60), unit by unit.
-/

namespace Sys2Proof.Machine

open Sys2Proof Config

set_option Elab.async false

/-! ## Power-on, register by register (R400) -/

section
variable (T : Settings)

@[simp] theorem State.powerOn_ar (v : Fin nvMax) : (State.powerOn T).ar[v] = ArState.powerOn T :=
  Vector.getElem_replicate v.isLt
@[simp] theorem State.powerOn_rfb (v : Fin nvMax) : (State.powerOn T).rfb[v] = RfbState.powerOn T :=
  Vector.getElem_replicate v.isLt
@[simp] theorem State.powerOn_env (v : Fin nvMax) (e : Fin 2) :
    (State.powerOn T).env[v][e] = EnvState.powerOn T := by
  have hslot : (State.powerOn T).env[v] = Vector.replicate 2 (EnvState.powerOn T) := Vector.getElem_replicate v.isLt
  rw [hslot]
  exact Vector.getElem_replicate e.isLt
@[simp] theorem State.powerOn_fb (v : Fin nvMax) : (State.powerOn T).fb[v] = FbState.powerOn T :=
  Vector.getElem_replicate v.isLt
@[simp] theorem State.powerOn_lfo (j : Fin nlfo) : (State.powerOn T).lfo[j] = LfoState.powerOn T :=
  Vector.getElem_replicate j.isLt

@[simp] theorem ArState.powerOn_osc (i : Fin nosc) : (ArState.powerOn T).osc[i] = OscState.reset :=
  Vector.getElem_replicate i.isLt
@[simp] theorem ArState.powerOn_amp (i : Fin nosc) : (ArState.powerOn T).amp[i] = F.zero :=
  Vector.getElem_replicate i.isLt
@[simp] theorem ArState.powerOn_model (k : Fin nslot) : (ArState.powerOn T).model[k] = ModelState.reset :=
  Vector.getElem_replicate k.isLt
@[simp] theorem RfbState.powerOn_filt (i : Fin nosc) : (RfbState.powerOn T).filt[i] = FiltState.reset :=
  Vector.getElem_replicate i.isLt
@[simp] theorem RfbState.powerOn_model (k : Fin nslot) : (RfbState.powerOn T).model[k] = ModelState.reset :=
  Vector.getElem_replicate k.isLt

/-- Every unit is after power-on what its own power-on makes it. -/
theorem State.unit_powerOn (u : UnitRef) : (State.powerOn T).unit u = u.powerOn T := by
  cases u with
  | ar v => exact State.powerOn_ar T v
  | rfb v => exact State.powerOn_rfb T v
  | env v e => exact State.powerOn_env T v e
  | fb v => exact State.powerOn_fb T v
  | lfo j => exact State.powerOn_lfo T j
  | fx => rfl

/-- An effect parameter's power-on value is the default of its row (R51, R302). -/
theorem fxDefaults_get (p : Fin nfx) : (fxDefaults T)[p] = (T.range (fxControl p)).dflt := by
  fin_cases p <;> rfl

end

@[simp] theorem ModelState.reset_amp (j : Fin np) : ModelState.reset.amp[j] = F.zero := Vector.getElem_replicate j.isLt
@[simp] theorem ModelState.reset_off (j : Fin np) : ModelState.reset.off[j] = F.zero := Vector.getElem_replicate j.isLt

/-! ## The values R400 prints, as patterns -/

/-- The reference sample rate and base frequency (R36), and the gain 1.0 (R51). -/
theorem lit_48000 : F.lit 48000 1 = F.asF 0x473B8000#32 := by decide +kernel
theorem lit_440 : F.lit 440 1 = F.asF 0x43DC0000#32 := by decide +kernel
theorem lit_one : F.lit 1 1 = F.asF 0x3F800000#32 := by decide +kernel

theorem EnvState.reset_eq : EnvState.reset =
    ⟨.idle, F.zero, F.asF 0x41200000#32, F.asF 0x42C80000#32, F.asF 0x3F333333#32, F.asF 0x43FA0000#32, F.zero, F.zero,
      F.zero, true⟩ := by
  decide +kernel

theorem FbState.reset_eq : FbState.reset =
    ⟨F.asF 0x469C4000#32, F.zero, .lowPass, F.zero, F.zero, F.zero, F.zero, F.zero, F.zero, F.zero, true⟩ := by
  decide +kernel

theorem LfoState.reset_eq : LfoState.reset =
    ⟨F.zero, F.asF 0x3F800000#32, F.asF 0x3F800000#32, .sine, F.asF 0x42F00000#32, F.asF 0x3F800000#32, F.zero, F.zero,
      F.zero, 0#32, F.zero, false, true⟩ := by
  decide +kernel

theorem fxDefaults_reference : fxDefaults referenceSettings =
    #v[F.asF 0x3F800000#32, F.zero, F.asF 0x3E800000#32, F.zero, F.zero, F.zero] := by
  decide +kernel

/-- Settles O19: each unit is its own power-on at the reference settings, whose defaults have the printed patterns. -/
theorem resetHoldsPowerOnValues : Obligations.ResetHoldsPowerOnValues := by
  unfold Obligations.ResetHoldsPowerOnValues
  intro s
  refine ⟨lit_48000, rfl, fun v => ?_, fun j => ?_, fxDefaults_reference, rfl, lit_one, fun k => ⟨rfl, rfl, rfl⟩,
    rfl, rfl, rfl, rfl, rfl, rfl⟩
  · have har : s.ar[v] = ArState.reset := State.powerOn_ar referenceSettings v
    have hrfb : s.rfb[v] = RfbState.reset := State.powerOn_rfb referenceSettings v
    rw [har, hrfb]
    refine ⟨fun i => ⟨ArState.powerOn_osc _ i, ArState.powerOn_amp _ i⟩, fun k => ?_, lit_440, rfl, rfl, rfl, rfl, rfl,
      rfl, RfbState.powerOn_filt _, lit_440, rfl, rfl, rfl, rfl, rfl, fun e => ?_, ?_⟩
    · have harModel : ArState.reset.model[k] = ModelState.reset := ArState.powerOn_model _ k
      have hrfbModel : RfbState.reset.model[k] = ModelState.reset := RfbState.powerOn_model _ k
      rw [harModel, hrfbModel]
      exact ⟨rfl, rfl, fun j => ⟨ModelState.reset_amp j, ModelState.reset_off j, ModelState.reset_amp j,
        ModelState.reset_off j⟩⟩
    · exact (State.powerOn_env referenceSettings v e).trans EnvState.reset_eq
    · exact (State.powerOn_fb referenceSettings v).trans FbState.reset_eq
  · exact (State.powerOn_lfo referenceSettings j).trans LfoState.reset_eq

/-! ## The invariants at power-on (R34, R52, R204, R234, R291) -/

/-- Zero is in `[0, 1]`, whatever the default. -/
theorem inRow_unitRange_zero (d : F) : inRow (unitRange d) F.zero = true := by
  change (F.zero.isFinite && F.le F.zero F.zero && F.le F.zero (F.lit 1 1)) = true
  decide +kernel

/-- Zero is a phase, a multiplier and a value of a draw. -/
theorem zero_inPhase : inPhase F.zero = true := by decide +kernel
theorem zero_inMultiplier : inMultiplier F.zero = true := by decide +kernel
theorem zero_inDraw : inDraw F.zero = true := by decide +kernel

/-- An envelope after power-on is Idle at level 0.0, its multipliers 0.0. -/
theorem EnvState.powerOn_bounded (T : Settings) : (EnvState.powerOn T).Bounded :=
  ⟨inUnit_zero rfl, zero_inMultiplier, zero_inMultiplier, zero_inMultiplier⟩

/-- No derived register is stale after power-on: every flag is set. -/
theorem UnitRef.powerOn_fresh (T : Settings) (fs : F) (u : UnitRef) : u.Fresh fs (u.powerOn T) :=
  u.markDirty_powerOn T ▸ u.markDirty_fresh fs (u.powerOn T)

section
variable {T : Settings} (hT : SettingsOk T)
include hT

/-- The default of a proper row is inside it. -/
theorem inRange_dflt (c : Control) : inRange T c (T.range c).dflt = true := by
  have hrow := hT.rows c
  simp only [rowProper, Bool.and_eq_true] at hrow
  exact hrow.2

/-- An empty model is in range: its offsets are zero, which their row holds. -/
theorem ModelState.reset_inRange : ModelState.reset.InRange T := by
  intro j
  rw [ModelState.reset_amp, ModelState.reset_off]
  exact ⟨inRow_unitRange_zero _, hT.cached.2⟩

/-- Every parameter of a unit is after power-on the default of its row, and every operand a filter bank has cached is
zero. -/
theorem UnitRef.powerOn_inRange (u : UnitRef) : u.InRange T (u.powerOn T) := by
  have hdflt := inRange_dflt hT
  have hmodel := ModelState.reset_inRange hT
  cases u with
  | ar v =>
    exact ⟨hdflt .arBase, hdflt .arStretch, hdflt .arEntropy, hdflt .arDetune,
      fun k => (ArState.powerOn_model T k).symm ▸ hmodel⟩
  | rfb v =>
    obtain ⟨hdetune, -⟩ := hT.cached
    exact ⟨hdflt .rfbBase, inRow_unitRange_zero _, inRow_unitRange_zero _, inRow_unitRange_zero _, hdetune,
      fun k => (RfbState.powerOn_model T k).symm ▸ hmodel⟩
  | env v e => exact ⟨hdflt .envAttack, hdflt .envDecay, hdflt .envSustain, hdflt .envRelease⟩
  | fb v => exact ⟨hdflt .fbCutoff, hdflt .fbRes⟩
  | lfo j => exact ⟨hdflt .lfoRate, hdflt .lfoDepth, hdflt .lfoBpm, hdflt .lfoDiv⟩
  | fx =>
    intro p
    have hp : inRange T (fxControl p) (fxDefaults T)[p] = true := (fxDefaults_get T p).symm ▸ hdflt (fxControl p)
    exact ⟨hp, hp⟩

/-- An LFO after power-on has phase, increment and held values 0.0, which no greatest increment is below. -/
theorem LfoState.powerOn_bounded : (LfoState.powerOn T).Bounded T := by
  obtain ⟨⟨hfin, hpos, -⟩, -⟩ := incMax_spec hT
  have hinc : inRow ⟨F.zero, incMax T, F.zero⟩ F.zero = true :=
    (inRow_incMax_iff hT F.zero).mpr ⟨rfl, by rwa [le_iff_toRat rfl hfin, toRat_zero]⟩
  exact ⟨zero_inPhase, hinc, zero_inDraw, zero_inDraw⟩

/-- Power-on meets every invariant, at settings a machine may have. -/
theorem State.powerOn_meetsInvariants :
    (State.powerOn T).ParamsInRange ∧ (State.powerOn T).EnvsBounded ∧ (State.powerOn T).LfosBounded ∧
      (State.powerOn T).LinesCanonical ∧ (State.powerOn T).AbsentAtPowerOn ∧ (State.powerOn T).DerivedFresh := by
  have hunit := State.unit_powerOn T
  refine ⟨?params, fun v e => ?envs, fun j => ?lfos, ?lines, ?absent, ?fresh⟩
  case params =>
    exact (State.paramsInRange_iff _).mpr ⟨hT, inRange_dflt hT .sysFs, fun u => hunit u ▸ u.powerOn_inRange hT⟩
  case envs => exact (State.powerOn_env T v e).symm ▸ EnvState.powerOn_bounded T
  case lfos => exact (State.powerOn_lfo T j).symm ▸ LfoState.powerOn_bounded hT
  case lines =>
    obtain ⟨hdly, hch, hrv⟩ := FxState.powerOn_lines_canonical T
    exact ⟨hdly, Nat.zero_lt_of_lt hT.line, hch, hrv⟩
  case absent => exact (State.absentAtPowerOn_iff _).mpr fun u _ _ _ => hunit u
  case fresh => exact (State.derivedFresh_iff _).mpr fun u => hunit u ▸ u.powerOn_fresh T _

end

/-- The reference table is one a machine may have (R36; D14), row by row; proved here since no proof rests on the
tests, which hold the same as a witness. -/
theorem settingsOk_reference : SettingsOk referenceSettings where
  slots := by decide
  line := by decide
  rows c := by cases c <;> decide +kernel
  rate := by decide +kernel
  times := by decide +kernel
  units := by decide +kernel
  lfoRate := by decide +kernel
  tempo := by decide +kernel
  depth := by decide +kernel
  delay := by decide +kernel
  cached := by decide +kernel
  freq := by decide +kernel
  smooth := by decide +kernel

/-- The greatest reference increment is the synced one, of 300 bpm at division 64 and 8000 Hz (R272). -/
theorem incMax_reference : incMax referenceSettings = F.lit 4 100 := by decide +kernel

/-- Settles O60: the reference settings are proper, and power-on at proper settings meets every invariant. -/
theorem resetMeetsTheInvariants : Obligations.ResetMeetsTheInvariants := by
  obtain ⟨hparams, henvs, hlfos, hlines, habsent, hfresh⟩ := State.powerOn_meetsInvariants settingsOk_reference
  exact ⟨settingsOk_reference, incMax_reference, hparams, henvs, hlfos, hlines, habsent, hfresh,
    fun _ hT => State.powerOn_meetsInvariants hT⟩

end Sys2Proof.Machine
end
